-- ==== Sys2Proof/Word.lean ====
section
/-! DEFINITION. The number domains of 00_scope.md R11: bytes, 16-bit words, exact rationals, and the
rationals with one not-a-number. -/

namespace Sys2Proof

/-- `u8` of R11. -/
abbrev Byte := BitVec 8

/-- `u16` of R11. -/
abbrev Word := BitVec 16

/-- `Q` of R11: an exact rational; times are in milliseconds (decision D3). -/
abbrev Q := Rat

/-- `Q?` of R11: a rational, or the one distinguished value not-a-number. -/
inductive QNan where
  | nan
  | num (q : Q)
  deriving DecidableEq, Repr, Inhabited

end Sys2Proof
end

