-- ==== Sys2Proof/Config.lean ====
section
/-! DEFINITION. What an implementation fixes: the parameter record `Cfg` of 00_scope.md R9 (plain data, held in
State and never changed by a step), its constraints, and the constants the spec leaves open, which have no body. -/

namespace Sys2Proof

/-- The parameter record of R9. Addresses of multi-byte groups are given by their first register, since R20 (c)
and (d) make the others follow. -/
structure Cfg where
  aEnable : BitVec 5
  aAtime : BitVec 5
  aWtime : BitVec 5
  aAiltl : BitVec 5
  aPers : BitVec 5
  aConfig : BitVec 5
  aControl : BitVec 5
  aId : BitVec 5
  aStatus : BitVec 5
  aCdatal : BitVec 5
  mPon : Byte
  mAen : Byte
  mWen : Byte
  mAien : Byte
  mWlong : Byte
  mAvalid : Byte
  mAint : Byte
  mApers : Byte
  mAgain : Byte
  tRepeat : BitVec 2
  tAutoinc : BitVec 2
  tSpecial : BitVec 2
  fClear : BitVec 5
  /-- `PERS_CODE` (R17): the codes of `every`, 1, 2, 3, 5, 10, ..., 60, in that order. -/
  persCode : List (BitVec 4)
  chipId : Byte
  /-- `RESET_REG` (R36): the content of `REG[0 .. 31]` after power-up. -/
  resetReg : List Byte
  deriving DecidableEq, Repr

namespace Config

/-- `LUX` (R113, R114, decision D18, U7, U8): a total function of clear, red, green, blue, otherwise unknown. -/
opaque lux : Word → Word → Word → Word → QNan

/-- `CCT` (R114, decision D18, U7, U8): a total function of clear, red, green, blue, otherwise unknown. -/
opaque cct : Word → Word → Word → Word → QNan

/-- `PERS_EVERY_IGNORES_BAND` (R154, decision D23, U10): open. -/
opaque persEveryIgnoresBand : Bool

/-- Whether a clear restarts the count of consecutive out-of-band samples: R155 says "re-armed" and no more. -/
opaque clearRestartsRun : Bool

/-- What a read of address `a` at draw `n` finds in the bits no rule describes: a whole reserved register (R19, U3:
any value), the reserved bits of a register with fields (U5: any value). -/
opaque reservedByte (n a : Nat) : Byte

/-- The host's time stamp at draw `n` (R129, R159: the host's, and the block has no clock). -/
opaque timestamp (n : Nat) : Q

/-- `POLL_INTERVAL` and `RETRY_INTERVAL` (R9, R169, decision D26), in milliseconds: open. -/
opaque pollInterval : Q

/-- `RETRY_INTERVAL` (R9, R163, decision D26), in milliseconds: open. -/
opaque retryInterval : Q

end Config

end Sys2Proof
end

