-- ==== Sys2Proof/Syntax.lean ====
section
/-! DEFINITION. The operations of spec/opcode_table.json with their operands (30_encoding.md R56; the
pseudo-operations of 48_profile_service.md), the operand ports, and what the host may issue. -/

namespace Sys2Proof

/-- A time operand in milliseconds. The port takes `finite` only; R89 says what a model that admits the other
three must do with them. -/
inductive TimeOperand where
  | finite (q : Q)
  | nan
  | posInf
  | negInf
  deriving DecidableEq, Repr

/-- The persistence operand (R96, decision D17): the token `every`, a boolean literal, or a count. The port takes
`every`, the literal `true` and integer counts; the others are out of its domain (R97). -/
inductive FilterOperand where
  | every
  | literal (b : Bool)
  | count (n : Q)
  deriving DecidableEq, Repr

/-- The logical persistence value a decode returns (R96): `every` or a count. -/
inductive Filter where
  | every
  | count (n : Nat)
  deriving DecidableEq, Repr

/-- The comparator window as the codec's operand (R92: `low, high : Int`). -/
structure Window where
  low : Int
  high : Int
  deriving DecidableEq, Repr

/-- A partial profile (R137): every field the caller leaves out is `none`. -/
structure PartialProfile where
  powerOn : Option Bool
  active : Option Bool
  wait : Option Bool
  interrupts : Option Bool
  integrationTimeMs : Option TimeOperand
  waitTimeMs : Option TimeOperand
  threshold : Option Window
  filtering : Option FilterOperand
  gain : Option Int
  deriving DecidableEq, Repr

/-- The logical configuration record (R32). -/
structure Profile where
  powerOn : Bool
  active : Bool
  wait : Bool
  interrupts : Bool
  integrationTimeMs : TimeOperand
  waitTimeMs : TimeOperand
  threshold : Window
  filtering : FilterOperand
  gain : Int
  deriving DecidableEq, Repr

/-- One constructor per row of spec/opcode_table.json. -/
inductive Instr where
  | encEnable (powerOn active wait interrupts : Bool)
  | decEnable (byte : Byte)
  | encAtime (ms : TimeOperand)
  | decAtime (byte : Byte)
  | encWtime (ms : TimeOperand)
  | decWtime (byte : Byte)
  | fmtWtime (count : Int) (longFlag : Bool)
  | encConfig (longFlag : Bool)
  | decConfig (byte : Byte)
  | encThresh (low high : Int)
  | decThresh (bytes : List Byte)
  | encPers (filter : FilterOperand)
  | decPers (byte : Byte)
  | encGain (multiplier : Int)
  | decGain (byte : Byte)
  | decStatus (byte : Byte)
  | decSample (bytes : List Byte)
  | deriveMeasurement (clear red green blue : Word)
  | mkcmd (addressOrFunction : Option Int) (type : BitVec 2) (isCommand : Option Bool)
  | tstepJump (low high sampleClear : Word)
  | tstepWalk (low high sampleClear : Word)
  | rdProfile
  | wrProfile (profile : PartialProfile)
  | clrInt
  | wrThresh (low high : Int)
  | rdThresh
  | rdId
  | rdStatus
  | rdData
  deriving DecidableEq, Repr

/-- The persistence operand port (R56: `every or count n`; R96: the literal `true` is accepted as a spelling). -/
inductive FilterPort where
  | every
  | literalTrue
  | count (n : Int)
  deriving DecidableEq, Repr

/-- The operand ports of the block (R56). `ENC_THRESH` has `Int` ports for its bounds and the controller `u16`
ports, so the two pairs are apart. -/
structure Ports where
  powerOn : Bool
  active : Bool
  wait : Bool
  interrupts : Bool
  longFlag : Bool
  byte : Byte
  ms : Q
  count : Int
  lowInt : Int
  highInt : Int
  bytes : List Byte
  filter : FilterPort
  multiplier : Int
  clear : Word
  red : Word
  green : Word
  blue : Word
  addressOrFunction : Option Int
  type : BitVec 2
  isCommand : Option Bool
  low : Word
  high : Word
  sampleClear : Word
  deriving DecidableEq, Repr

/-- A call of the Profile Service (R146): it has no selector and no encoding of its own. -/
inductive ServiceCall where
  | rdProfile
  | wrProfile (profile : PartialProfile)
  | clrInt
  | wrThresh (low high : Int)
  | rdThresh
  | rdId
  | rdStatus
  | rdData
  deriving DecidableEq, Repr

/-- What stands for one row of the operation table when the host issues it: a request with a 5-bit selector and
its operand ports (R55), or a Profile Service call. -/
inductive Issue where
  | request (op : BitVec 5) (ports : Ports)
  | service (call : ServiceCall)
  deriving DecidableEq, Repr

/-- A bus primitive issued with a command byte built by hand (R40, R72). -/
inductive BusRequest where
  | read (cmd : Byte) (n : Nat)
  | write (cmd : Byte) (bytes : List Byte)
  | special (cmd : Byte)
  deriving DecidableEq, Repr

/-- One item of the host's stream of control (R14, R49). -/
inductive HostCommand where
  | issue (i : Issue)
  | bus (b : BusRequest)
  deriving DecidableEq, Repr

end Sys2Proof
end

