-- ==== Sys2Proof/WellFormed.lean ====
section
/-! DEFINITION. Which operations can be presented on the block's typed ports (30_encoding.md R56). -/

namespace Sys2Proof

/-- A `Q` operand is always a finite number (R89). -/
def TimeOperand.presentable : TimeOperand → Bool
  | .finite _ => true
  | .nan => false
  | .posInf => false
  | .negInf => false

/-- The filter port takes `every`, the literal `true` and integer counts (R56, R96). -/
def FilterOperand.presentable : FilterOperand → Bool
  | .every => true
  | .literal b => b
  | .count n => n.den == 1

/-- A field the caller leaves out is presentable, a supplied one when its value is (R137, R32). -/
def PartialProfile.presentable (p : PartialProfile) : Bool :=
  p.integrationTimeMs.all TimeOperand.presentable && p.waitTimeMs.all TimeOperand.presentable
    && p.filtering.all FilterOperand.presentable

/-- Every operand is a value of its port type (R56; for a profile, of its field's type, R32). -/
def Instr.wellFormed : Instr → Bool
  | .encEnable _ _ _ _ => true
  | .decEnable _ => true
  | .encAtime ms => ms.presentable
  | .decAtime _ => true
  | .encWtime ms => ms.presentable
  | .decWtime _ => true
  | .fmtWtime _ _ => true
  | .encConfig _ => true
  | .decConfig _ => true
  | .encThresh _ _ => true
  | .decThresh _ => true
  | .encPers filter => filter.presentable
  | .decPers _ => true
  | .encGain _ => true
  | .decGain _ => true
  | .decStatus _ => true
  | .decSample _ => true
  | .deriveMeasurement _ _ _ _ => true
  | .mkcmd _ _ _ => true
  | .tstepJump _ _ _ => true
  | .tstepWalk _ _ _ => true
  | .rdProfile => true
  | .wrProfile profile => profile.presentable
  | .clrInt => true
  | .wrThresh _ _ => true
  | .rdThresh => true
  | .rdId => true
  | .rdStatus => true
  | .rdData => true

end Sys2Proof
end

