-- ==== Sys2Proof/Decode.lean ====
section
/-! DEFINITION. From a request to an operation and back: the selectors of 30_encoding.md R56 and R57, the operand
ports each operation reads, and the Profile Service calls, which have no selector. -/

namespace Sys2Proof

/-- Why an issued request stands for no operation. -/
inductive DecodeReject where
  /-- A selector 21 to 31 (R58). -/
  | reservedSelector (op : BitVec 5)
  deriving DecidableEq, Repr

/-- All operand ports at zero: no flag set, every number 0, no bytes, the count 0, no address, `isCommand` omitted. -/
def Ports.zero : Ports :=
  { powerOn := false, active := false, wait := false, interrupts := false, longFlag := false, byte := 0, ms := 0,
    count := 0, lowInt := 0, highInt := 0, bytes := [], filter := .count 0, multiplier := 0, clear := 0, red := 0,
    green := 0, blue := 0, addressOrFunction := none, type := 0, isCommand := none, low := 0, high := 0,
    sampleClear := 0 }

/-- The operand a filter port carries. -/
def FilterPort.operand : FilterPort → FilterOperand
  | .every => .every
  | .literalTrue => .literal true
  | .count n => .count (n : Q)

/-- The filter port that carries a presentable operand. -/
def FilterOperand.port : FilterOperand → FilterPort
  | .every => .every
  | .literal _ => .literalTrue
  | .count n => .count n.num

/-- The rational on the time port for a presentable operand. -/
def TimeOperand.port : TimeOperand → Q
  | .finite q => q
  | .nan => 0
  | .posInf => 0
  | .negInf => 0

/-- The operation a selector names, with the operands on its ports (R56); the selectors 21 to 31 name none (R58). -/
def decodeRequest (op : BitVec 5) (p : Ports) : Except DecodeReject Instr :=
  match op.toNat with
  | 0 => .ok (.encEnable p.powerOn p.active p.wait p.interrupts)
  | 1 => .ok (.decEnable p.byte)
  | 2 => .ok (.encAtime (.finite p.ms))
  | 3 => .ok (.decAtime p.byte)
  | 4 => .ok (.encWtime (.finite p.ms))
  | 5 => .ok (.decWtime p.byte)
  | 6 => .ok (.fmtWtime p.count p.longFlag)
  | 7 => .ok (.encConfig p.longFlag)
  | 8 => .ok (.decConfig p.byte)
  | 9 => .ok (.encThresh p.lowInt p.highInt)
  | 10 => .ok (.decThresh p.bytes)
  | 11 => .ok (.encPers p.filter.operand)
  | 12 => .ok (.decPers p.byte)
  | 13 => .ok (.encGain p.multiplier)
  | 14 => .ok (.decGain p.byte)
  | 15 => .ok (.decStatus p.byte)
  | 16 => .ok (.decSample p.bytes)
  | 17 => .ok (.deriveMeasurement p.clear p.red p.green p.blue)
  | 18 => .ok (.mkcmd p.addressOrFunction p.type p.isCommand)
  | 19 => .ok (.tstepJump p.low p.high p.sampleClear)
  | 20 => .ok (.tstepWalk p.low p.high p.sampleClear)
  | _ => .error (.reservedSelector op)

/-- The operation a Profile Service call stands for (R146). -/
def decodeService : ServiceCall → Instr
  | .rdProfile => .rdProfile
  | .wrProfile p => .wrProfile p
  | .clrInt => .clrInt
  | .wrThresh low high => .wrThresh low high
  | .rdThresh => .rdThresh
  | .rdId => .rdId
  | .rdStatus => .rdStatus
  | .rdData => .rdData

/-- The operation an issued item stands for. Total; a reserved selector is rejected by name. -/
def decode : Issue → Except DecodeReject Instr
  | .request op ports => decodeRequest op ports
  | .service call => .ok (decodeService call)

/-- The request or call for an operation whose operands are presentable; the ports it does not use are zero. -/
def encodeIssue : Instr → Issue
  | .encEnable powerOn active wait interrupts =>
      .request 0 { Ports.zero with powerOn := powerOn, active := active, wait := wait, interrupts := interrupts }
  | .decEnable byte => .request 1 { Ports.zero with byte := byte }
  | .encAtime ms => .request 2 { Ports.zero with ms := ms.port }
  | .decAtime byte => .request 3 { Ports.zero with byte := byte }
  | .encWtime ms => .request 4 { Ports.zero with ms := ms.port }
  | .decWtime byte => .request 5 { Ports.zero with byte := byte }
  | .fmtWtime count longFlag => .request 6 { Ports.zero with count := count, longFlag := longFlag }
  | .encConfig longFlag => .request 7 { Ports.zero with longFlag := longFlag }
  | .decConfig byte => .request 8 { Ports.zero with byte := byte }
  | .encThresh low high => .request 9 { Ports.zero with lowInt := low, highInt := high }
  | .decThresh bytes => .request 10 { Ports.zero with bytes := bytes }
  | .encPers filter => .request 11 { Ports.zero with filter := filter.port }
  | .decPers byte => .request 12 { Ports.zero with byte := byte }
  | .encGain multiplier => .request 13 { Ports.zero with multiplier := multiplier }
  | .decGain byte => .request 14 { Ports.zero with byte := byte }
  | .decStatus byte => .request 15 { Ports.zero with byte := byte }
  | .decSample bytes => .request 16 { Ports.zero with bytes := bytes }
  | .deriveMeasurement clear red green blue =>
      .request 17 { Ports.zero with clear := clear, red := red, green := green, blue := blue }
  | .mkcmd addressOrFunction type isCommand =>
      .request 18 { Ports.zero with addressOrFunction := addressOrFunction, type := type, isCommand := isCommand }
  | .tstepJump low high sampleClear =>
      .request 19 { Ports.zero with low := low, high := high, sampleClear := sampleClear }
  | .tstepWalk low high sampleClear =>
      .request 20 { Ports.zero with low := low, high := high, sampleClear := sampleClear }
  | .rdProfile => .service .rdProfile
  | .wrProfile profile => .service (.wrProfile profile)
  | .clrInt => .service .clrInt
  | .wrThresh low high => .service (.wrThresh low high)
  | .rdThresh => .service .rdThresh
  | .rdId => .service .rdId
  | .rdStatus => .service .rdStatus
  | .rdData => .service .rdData

/-- The encoder: an operation with an operand no port can carry has no request (R89, U20). -/
def encode (i : Instr) : Option Issue :=
  if i.wellFormed then some (encodeIssue i) else none

/-- The request of a table word: the selector is `op[4:0]` (R55), and the table gives the operands no bits, so every
port is zero. -/
def tableRequest (w : Nat) : Issue :=
  .request (BitVec.ofNat 5 w) Ports.zero

/-- The operation the decoder reads from the table word `w`. A word above 31 is no 5-bit selector. -/
def decodeTableWord (_nbits w : Nat) : Option Instr :=
  if w < 32 then
    match decode (tableRequest w) with
    | .ok i => some i
    | .error _ => none
  else none

end Sys2Proof
end

