-- ==== Sys2Proof/Machine/Defaults.lean ====
section
/-! DEFINITION. The default parameters of 00_scope.md R9, and the reset bytes of the register file. -/

namespace Sys2Proof.Machine

/-- The persistence codes in the order R17 lists the values: `every` 0, then 1 to 15 (decision D10, GK8). -/
def defaultPersCode : List (BitVec 4) :=
  [0, 1, 2, 3, 4, 5, 6, 7, 8, 9, 10, 11, 12, 13, 14, 15]

/-- PRESUMED. The data sheet's reset bytes of the TCS3472x (GK12, GK10), addresses 0x00 to 0x1F. R36 leaves them
open; the layout of R20 is that family's. Unsafe: a claim can lean on a byte that no rule gives (log 4). -/
def defaultResetReg : List Byte :=
  [0x00, 0xFF, 0x00, 0xFF, 0x00, 0x00, 0x00, 0x00,
   0x00, 0x00, 0x00, 0x00, 0x00, 0x00, 0x00, 0x00,
   0x00, 0x00, 0x44, 0x00, 0x00, 0x00, 0x00, 0x00,
   0x00, 0x00, 0x00, 0x00, 0x00, 0x00, 0x00, 0x00]

/-- The defaults of R9 (GK2 to GK10; log 3). -/
def defaultCfg : Cfg :=
  { aEnable := 0x00, aAtime := 0x01, aWtime := 0x03, aAiltl := 0x04, aPers := 0x0C, aConfig := 0x0D,
    aControl := 0x0F, aId := 0x12, aStatus := 0x13, aCdatal := 0x14,
    mPon := 0x01, mAen := 0x02, mWen := 0x08, mAien := 0x10, mWlong := 0x02, mAvalid := 0x01, mAint := 0x10,
    mApers := 0x0F, mAgain := 0x03, tRepeat := 0, tAutoinc := 1, tSpecial := 3, fClear := 0x06,
    persCode := defaultPersCode, chipId := 0x44, resetReg := defaultResetReg }

end Sys2Proof.Machine
end

