-- ==== Sys2Proof/Machine/State.lean ====
section
/-! DEFINITION. The state of the machine as plain data: the block's output ports, the chip, the host session, the
host's foreground, and the environment's choices; the outcomes a step can stop with; the state after reset. -/

namespace Sys2Proof.Machine

/-! ### What operations return (30_encoding.md R56) -/

/-- The four flags of ENABLE (R21). -/
structure EnableFlags where
  powerOn : Bool
  active : Bool
  wait : Bool
  interrupts : Bool
  deriving DecidableEq, Repr

/-- The result of DEC_ATIME (R79). -/
structure IntegrationTiming where
  cycles : Int
  maxCount : Int
  timeMs : Q
  deriving DecidableEq, Repr

/-- The result of DEC_WTIME (R83). -/
structure WaitTiming where
  wtime : Byte
  count : Int
  deriving DecidableEq, Repr

/-- The result of DEC_STATUS (R104). -/
structure StatusFlags where
  dataValid : Bool
  thresholdViolation : Bool
  deriving DecidableEq, Repr

/-- The result of DEC_THRESH (R93): a window of two `u16`. -/
structure Band where
  low : Word
  high : Word
  deriving DecidableEq, Repr

/-- A Raw Sample (R106). -/
structure Sample where
  clear : Word
  red : Word
  green : Word
  blue : Word
  deriving DecidableEq, Repr

/-- The `ratio` record (R110). -/
structure Ratio where
  r : Q
  g : Q
  b : Q
  c : Q
  deriving DecidableEq, Repr

/-- The `rgb` record with its `zero` flag (R111). -/
structure Rgb where
  r : Int
  g : Int
  b : Int
  zero : Bool
  deriving DecidableEq, Repr

/-- A Derived Measurement (R108, R115). -/
structure Measurement where
  raw : Sample
  ratio : Ratio
  rgb : Rgb
  lux : QNan
  colorTemperatureK : QNan
  deriving DecidableEq, Repr

/-- The side on which a sample left the window (R123). -/
inductive Direction where
  | below
  | inside
  | above
  deriving DecidableEq, Repr

/-- The result record of the controller (R129). -/
structure ControllerStep where
  newLow : Int
  newHigh : Int
  direction : Direction
  sampleClear : Word
  deriving DecidableEq, Repr

/-- The "friendly form" of RD_PROFILE (R136). -/
structure ProfileReading where
  enable : EnableFlags
  integration : IntegrationTiming
  wait : WaitTiming
  wlong : Bool
  waitTimeMs : Q
  threshold : Band
  filtering : Filter
  gain : Int
  status : StatusFlags
  deriving DecidableEq, Repr

/-- The result ports of an operation that returned ok. -/
inductive Result where
  | byte (b : Byte)
  | byteAndLongFlag (b : Byte) (longFlag : Bool)
  | enableFlags (f : EnableFlags)
  | integrationTiming (t : IntegrationTiming)
  | waitTiming (t : WaitTiming)
  | timeMs (t : Q)
  | wlong (b : Bool)
  | bytes (bs : List Byte)
  | band (b : Band)
  | filter (f : Filter)
  | multiplier (m : Int)
  | statusFlags (f : StatusFlags)
  | sample (s : Sample)
  | measurement (m : Measurement)
  | command (b : Byte)
  | controllerStep (r : ControllerStep)
  | profileReading (p : ProfileReading)
  | data (s : Sample) (m : Measurement)
  | acknowledged
  deriving DecidableEq, Repr

/-! ### Errors (60_exceptions.md R148 to R151) -/

/-- The classes of R149. -/
inductive ErrorClass where
  | rangeError
  | lengthError
  | missingOperand
  | illegalOp
  deriving DecidableEq, Repr

/-- The field an error names (R150). -/
inductive ErrorField where
  | integrationTimeMs
  | waitTimeMs
  | thresholdLow
  | thresholdHigh
  | threshold
  | filtering
  | gain
  | sample
  | addressOrFunction
  | type
  | op
  deriving DecidableEq, Repr

/-- The value an error records (R149): the offending value, the length supplied, the selector, or nothing. -/
inductive ErrorValue where
  | time (t : TimeOperand)
  | int (n : Int)
  | filter (f : FilterOperand)
  | absent
  deriving DecidableEq, Repr

/-- An error of a block operation: `(class, field, value)` (R148). -/
structure OpError where
  cls : ErrorClass
  field : ErrorField
  value : ErrorValue
  deriving DecidableEq, Repr

/-- The optional peripherals of a session (R170). -/
inductive Peripheral where
  | led
  | interruptLine
  deriving DecidableEq, Repr

/-- The host's error taxonomy (R151). -/
inductive Failure where
  | domain (e : OpError)
  | identityMismatch
  | transport
  | peripheral (p : Peripheral)
  | anomalousInterrupt
  deriving DecidableEq, Repr

/-! ### The chip -/

/-- The chip's side of the bus: the register file (R19) as its written cells, the interrupt condition latch
(R31 (a)) and the number of consecutive completed out-of-band samples (R154). -/
structure Chip where
  reg : List Host.Cell
  latch : Bool
  run : Nat
  deriving DecidableEq, Repr

/-! ### The host session -/

/-- The lifecycle states (R160). -/
inductive Lifecycle where
  | unconfigured
  | connecting
  | verifyingIdentity
  | applyingProfile
  | running
  | stopped
  | retryWaiting
  deriving DecidableEq, Repr

/-- The controller strategies (R122). -/
inductive Strategy where
  | jump
  | walk
  deriving DecidableEq, Repr

/-- What the poll reads (R157). -/
inductive PollMode where
  | status
  | profile
  deriving DecidableEq, Repr

/-- `SWI_WINDOW_SOURCE` (decision D27). -/
inductive WindowSource where
  | freshRead
  | profileRead
  | sessionCopy
  deriving DecidableEq, Repr

/-- The configuration given to `setupWithRetry` (R157, R160, R178, N32). -/
structure HostConfig where
  profile : PartialProfile
  pollMode : PollMode
  softwareInterrupt : Bool
  startupClear : Bool
  strategy : Strategy
  ledEnabled : Bool
  ledDelayMs : Option Q
  lineEnabled : Bool
  windowSource : WindowSource
  deriving DecidableEq, Repr

/-- One register write of WR_PROFILE (R139): the first register, the command type and the payload. -/
structure RegWrite where
  address : BitVec 5
  type : BitVec 2
  bytes : List Byte
  deriving DecidableEq, Repr

/-- What a WR_PROFILE still has to issue: component writes in any order, then ENABLE (R139, R51). -/
structure WriteJob where
  pending : List RegWrite
  enable : RegWrite
  deriving DecidableEq, Repr

/-- Progress inside ApplyingProfile: the profile writes, then the start-up clear (R179 steps 4 and 5). -/
inductive ApplyPhase where
  | write (job : WriteJob)
  | clear
  deriving DecidableEq, Repr

/-- Progress of a service sequence (R158), named by what is to be done next. -/
inductive ServicePhase where
  | readBoth
  | readSample (b : Band)
  | readThreshold (clear : Word)
  | write (r : ControllerStep)
  | rewrite (r : ControllerStep)
  | clear
  deriving DecidableEq, Repr

/-- What the poll read (R157, R159). -/
inductive PollResult where
  | status (f : StatusFlags)
  | profile (p : ProfileReading)
  deriving DecidableEq, Repr

/-- Progress of the poll path (R157), named by what is to be done next. -/
inductive PollPhase where
  | read
  | ledDelay (r : PollResult)
  | readData (r : PollResult)
  | service (p : ServicePhase)
  deriving DecidableEq, Repr

/-- The Device Session (R33) and its two event sources. -/
structure Session where
  lifecycle : Lifecycle
  config : Option HostConfig
  profile : Option Profile
  window : Option Window
  bus : Bool
  /-- `none`: no LED handle; `some lit`: the handle is held. -/
  led : Option Bool
  line : Bool
  pollTimer : Option Q
  retryTimer : Option Q
  watcher : Bool
  edge : Bool
  applying : Option ApplyPhase
  poll : Option PollPhase
  irq : Option ServicePhase
  deriving DecidableEq, Repr

/-- The agents of a session, for the log. -/
inductive Activity where
  | setup
  | poll
  | irq
  deriving DecidableEq, Repr

/-- The events the host emits (R159). -/
inductive HostEvent where
  | data (m : Measurement) (r : PollResult)
  | step (newWindow : Window) (direction : Direction) (sampleClear : Word) (timestamp : Q)
  deriving DecidableEq, Repr

/-! ### The environment -/

/-- What the transport or the GPIO layer answers to one request (R40, D30). -/
inductive Answer where
  /-- The request completes. -/
  | ok
  /-- A read returns only its first `n` bytes (R142); for every other request, as `ok`. -/
  | short (n : Nat)
  /-- The request fails; of a write, the bytes marked `true` reached the chip all the same (U6). -/
  | fail (landed : List Bool)
  deriving DecidableEq, Repr

/-- What the chip does by itself (D32, U14). -/
inductive ChipAct where
  /-- STATUS and the data registers change, with no conversion completed. -/
  | update (status : Byte) (sample : Sample)
  /-- An integration cycle completes: STATUS and the data registers change and the comparator looks at the sample
  (R153). `latchWhileMasked` says whether the condition may be latched while ENABLE `interrupts` is clear. -/
  | cycle (status : Byte) (sample : Sample) (latchWhileMasked : Bool)
  /-- With conversion off, the count of consecutive outside samples is lost (R173: what survives is not in doc00). -/
  | forgetRun
  deriving DecidableEq, Repr

/-- The lifecycle entry points (R160). -/
inductive LifecycleCall where
  | setupWithRetry (config : HostConfig)
  | start
  | stop
  deriving DecidableEq, Repr

/-- Who moves at a step (R6). -/
inductive Turn where
  | foreground
  | call (c : LifecycleCall)
  | setup
  | retryFires
  | pollFires
  | poll
  | irq
  | chip (act : ChipAct)
  deriving DecidableEq, Repr

/-! ### The state -/

/-- The machine. -/
structure State where
  /-- The parameter record (R9); no step changes it. -/
  cfg : Cfg
  /-- Result ports of the last operation that returned ok. -/
  out : Option Result
  /-- The error indication of the last operation; `none` is err = 0 (R148). -/
  err : Option Failure
  chip : Chip
  session : Session
  /-- What the host has issued and not yet taken, oldest first (R14, R49). -/
  queue : List HostCommand
  /-- The writes a foreground WR_PROFILE still has to issue (R139). -/
  job : Option WriteJob
  /-- Events emitted, latest first (R159). -/
  events : List HostEvent
  /-- Conditions logged, latest first (R172). -/
  log : List (Activity × Failure)
  /-- The model's own: who moves at each coming step; with none left, the foreground (R53). -/
  schedule : List Turn
  /-- The model's own: answers to the coming requests; with none left, `ok` (R40). -/
  answers : List Answer
  /-- The model's own: how the coming free choices fall; with none left, 0 (R51, R158, D31). -/
  picks : List Nat
  /-- The model's own: what the chip does between the accesses of the coming repeated reads, one entry for each gap;
  with none left, nothing (R45; log 11). -/
  interludes : List (List ChipAct)
  /-- The model's own: the draw at which the next free value is taken. -/
  draws : Nat
  deriving DecidableEq, Repr

/-- Why the machine stops on an access the register space does not have. -/
inductive Fault where
  /-- Raised by a bus transfer of `n` bytes from register `a` that would run past address 0x1F (R43, U17: not
  described). Safe: the model stops where the chip does something no source states. -/
  | pastRegisterSpace (a n : Nat)
  deriving DecidableEq, Repr

/-- Why a step is refused. -/
inductive Refusal where
  /-- Raised by exec for an operation without a meaning. Safe. -/
  | notModelled (mnemonic : String)
  /-- Raised by a bus primitive whose command byte has the indicator bit clear (U12). Safe. -/
  | indicatorClear (cmd : Byte)
  /-- Raised by a bus primitive whose command type is none of the three codes, or does not suit the primitive (R62,
  R37: a special function holds no data, a register is not sent bare). Safe. -/
  | typeUndescribed (cmd : Byte)
  /-- Raised by BusSpecial with a function other than `F_CLEAR` (R37, U4). Safe. -/
  | reservedFunction (f : BitVec 5)
  /-- Raised by BusWrite to a register no rule names (R19, U3). Safe. -/
  | reservedWrite (a : Nat)
  /-- Raised by BusWrite to ID, STATUS or a data register, which are read-only to the host (R28, R29, R30). Safe. -/
  | readOnlyWrite (a : Nat)
  /-- Raised by a repeated-byte BusWrite of more than one byte (R45, U17). Safe. -/
  | repeatedWrite (n : Nat)
  deriving DecidableEq, Repr

/-- The result of a step or a meaning. -/
abbrev Res := Host.Outcome State Fault Refusal

/-- The session before any setup request (R36, R160): `Unconfigured`, no handle, no profile, no window. -/
def Session.reset : Session :=
  { lifecycle := .unconfigured, config := none, profile := none, window := none, bus := false, led := none,
    line := false, pollTimer := none, retryTimer := none, watcher := false, edge := false, applying := none,
    poll := none, irq := none }

/-- The chip after power-up: nothing written, so every register reads as its reset byte (log 4); the latch and the
count are DESIGN CHOICE `false` and 0 (R36, R177: unspecified; unsafe, log 5). -/
def Chip.reset : Chip :=
  { reg := [], latch := false, run := 0 }

/-- The machine right after reset (R35, R36, R176, R177). -/
def State.reset : State :=
  { cfg := defaultCfg, out := none, err := none, chip := Chip.reset, session := Session.reset, queue := [],
    job := none, events := [], log := [], schedule := [], answers := [], picks := [],
    interludes := [], draws := 0 }

end Sys2Proof.Machine
end

