-- ==== Sys2Proof/Machine/Operands.lean ====
section
/-! DEFINITION. Operand assembly (30_encoding.md R71, 00_scope.md R10 and R11): byte order, rounding, fields under a
mask, enumeration tables, the register map, and the payloads the decoders take. -/

namespace Sys2Proof.Machine

/-! ### Byte order (R10, R41) -/

/-- `le16(lo, hi) = hi * 256 + lo` (R10). -/
def le16 (lo hi : Byte) : Word := BitVec.ofNat 16 (hi.toNat * 256 + lo.toNat)

/-- `lo8(v) = v mod 256` (R10). -/
def lo8 (v : Word) : Byte := BitVec.ofNat 8 (v.toNat % 256)

/-- `hi8(v) = (v div 256) mod 256` (R10). -/
def hi8 (v : Word) : Byte := BitVec.ofNat 8 (v.toNat / 256 % 256)

/-- The `i`-th byte of a sequence; the callers check the length first. -/
def byteAt (bs : List Byte) (i : Nat) : Byte := bs.getD i 0

/-- The little-endian word at offset `i` of a sequence (R41). -/
def wordAt (bs : List Byte) (i : Nat) : Word := le16 (byteAt bs i) (byteAt bs (i + 1))

/-- A word in transfer order (R41). -/
def wordBytes (v : Word) : List Byte := [lo8 v, hi8 v]

/-- The sample block in transfer order (R69). -/
def sampleBytes (s : Sample) : List Byte :=
  wordBytes s.clear ++ wordBytes s.red ++ wordBytes s.green ++ wordBytes s.blue

/-! ### Rounding (R11) and the time constants (R77) -/

/-- `floor(q)`: the greatest integer not above `q`. -/
def floorQ (q : Q) : Int := q.num / (q.den : Int)

/-- `trunc(q)`: `q` rounded toward zero. -/
def truncQ (q : Q) : Int := q.num.tdiv (q.den : Int)

/-- `STEP`, 2.4 ms. -/
def stepMs : Q := 12 / 5

/-- `LONG_MULT`. -/
def longMult : Q := 12

/-- `LONG_STEP`, 28.8 ms. -/
def longStepMs : Q := longMult * stepMs

/-- `SHORT_MAX`, 614.4 ms. -/
def shortMaxMs : Q := 256 * stepMs

/-- The timing byte of a count in 1 .. 256 (R65). -/
def countByte (count : Int) : Byte := BitVec.ofInt 8 (256 - count)

/-- The count of a timing byte (R65), in 1 .. 256. -/
def byteCount (v : Byte) : Int := 256 - (v.toNat : Int)

/-! ### Fields under a mask (R25, R27, decision D11) -/

/-- The position of a mask's lowest bit. -/
def fieldLsb (mask : Byte) : Nat := ((List.range 8).find? fun i => mask.getLsbD i).getD 0

/-- A code placed in the field under `mask`, every other bit 0. DEDUCED: under a mask that does not start at bit 0
the code is shifted to it (log 36); under the default masks it stays. -/
def placeField (mask code : Byte) : Byte := (code <<< fieldLsb mask) &&& mask

/-- The code in the field under `mask`, every other bit ignored. -/
def extractField (mask b : Byte) : Byte := (b &&& mask) >>> fieldLsb mask

/-! ### Enumerations (R16, R17) -/

/-- The accepted counts other than 0, in the order of R17. -/
def persCounts : List Nat := [1, 2, 3, 5, 10, 15, 20, 25, 30, 35, 40, 45, 50, 55, 60]

/-- The keys of `PERS_CODE` (R17). -/
def persKeys : List Filter := .every :: persCounts.map .count

/-- `PERS_CODE` as key and code pairs. -/
def persTable (c : Cfg) : List (Filter × BitVec 4) := persKeys.zip c.persCode

/-- `PERS_CODE(f)`; every key has a code under a well-formed parameter record. -/
def persCodeOf (c : Cfg) (f : Filter) : BitVec 4 :=
  (((persTable c).find? fun p => p.1 == f).map Prod.snd).getD 0

/-- The key with a given code; every code has a key under a well-formed parameter record. -/
def persKeyOf (c : Cfg) (code : BitVec 4) : Filter :=
  (((persTable c).find? fun p => p.2 == code).map Prod.fst).getD .every

/-- The key an operand stands for (R96): `true`, 0 and `every` are one key, an unlisted count, a non-integer and
`false` are none (R97, decision D17). -/
def filterKey : FilterOperand → Option Filter
  | .every => some .every
  | .literal b => if b then some .every else none
  | .count n =>
      if n = 0 then some .every
      else (persCounts.find? fun (k : Nat) => decide ((Nat.cast k : Q) = n)).map .count

/-- `GAIN_CODE` (R16). -/
def gainCode (m : Int) : Option Byte :=
  if m = 1 then some 0 else if m = 4 then some 1 else if m = 16 then some 2 else if m = 60 then some 3 else none

/-- The multiplier of a gain code (R16). -/
def gainOf (code : Byte) : Int :=
  if code = 0 then 1 else if code = 1 then 4 else if code = 2 then 16 else 60

/-! ### The register map (R20, R38) -/

/-- Registers the host writes (R21 to R27). -/
def hostWritten (c : Cfg) : List Nat :=
  [c.aEnable.toNat, c.aAtime.toNat, c.aWtime.toNat, c.aAiltl.toNat, c.aAiltl.toNat + 1, c.aAiltl.toNat + 2,
   c.aAiltl.toNat + 3, c.aPers.toNat, c.aConfig.toNat, c.aControl.toNat]

/-- The eight data registers (R30). -/
def dataRegisters (c : Cfg) : List Nat := (List.range 8).map (c.aCdatal.toNat + ·)

/-- Registers the chip writes (R29, R30). -/
def chipWritten (c : Cfg) : List Nat := c.aStatus.toNat :: dataRegisters c

/-- Registers that are read-only to the host (R28, R29, R30). -/
def readOnly (c : Cfg) : List Nat := c.aId.toNat :: chipWritten c

/-- Registers some rule names; every other address is reserved (R19). -/
def namedRegisters (c : Cfg) : List Nat := hostWritten c ++ readOnly c

/-- The bits of a register that the rules describe: its fields (R21, R25 to R27, R29), a whole data register, no bit
of a reserved address (R19). -/
def describedBits (c : Cfg) (a : Nat) : Byte :=
  if a = c.aEnable.toNat then c.mPon ||| c.mAen ||| c.mWen ||| c.mAien
  else if a = c.aPers.toNat then c.mApers
  else if a = c.aConfig.toNat then c.mWlong
  else if a = c.aControl.toNat then c.mAgain
  else if a = c.aStatus.toNat then c.mAvalid ||| c.mAint
  else if a ∈ namedRegisters c then 0xFF
  else 0

/-- The bits under the mask from one byte, the others from another. -/
def blend (mask known other : Byte) : Byte :=
  if mask = 0xFF then known else (known &&& mask) ||| (other &&& ~~~mask)

/-- The three described command types (R62); the fourth value is reserved (R120). -/
def describedType (c : Cfg) (t : BitVec 2) : Bool := t == c.tRepeat || t == c.tAutoinc || t == c.tSpecial

/-- Exactly one bit set. -/
def isOneBit (m : Byte) : Bool := (List.range 8).any fun i => m == BitVec.twoPow 8 i

/-- Every constraint the spec puts on the parameter record: masks (R21, R26, R29), fields (D11), types (R62), the
persistence codes (R17), the register order and spans (R20) and 32 reset bytes (R36). -/
def cfgWellFormed (c : Cfg) : Bool :=
  [c.mPon, c.mAen, c.mWen, c.mAien, c.mWlong, c.mAvalid, c.mAint].all isOneBit
    && decide [c.mPon, c.mAen, c.mWen, c.mAien].Nodup && c.mAvalid != c.mAint
    && ((List.range 5).any fun i => c.mApers == 0x0F#8 <<< i)
    && ((List.range 7).any fun i => c.mAgain == 0x03#8 <<< i)
    && decide [c.tRepeat, c.tAutoinc, c.tSpecial].Nodup
    && c.persCode.length == 16 && decide c.persCode.Nodup
    && decide (namedRegisters c).Nodup && (namedRegisters c).all (· < 32)
    && c.aStatus.toNat == c.aEnable.toNat + 19
    && decide ([c.aEnable.toNat, c.aAtime.toNat, c.aWtime.toNat, c.aAiltl.toNat, c.aPers.toNat, c.aConfig.toNat,
        c.aControl.toNat, c.aStatus.toNat].Pairwise (· < ·))
    && c.resetReg.length == 32

end Sys2Proof.Machine
end

