-- ==== Sys2Proof/Machine/Flags.lean ====
section
/-! DEFINITION. The one-bit values and predicates of 10_state.md R18: flags as bits under masks, the long-wait
regime, the direction, the comparator's test, and the error indication. -/

namespace Sys2Proof.Machine

/-- The mask when the flag is set, else 0 (R71 (a)). -/
def maskIf (flag : Bool) (mask : Byte) : Byte := if flag then mask else 0

/-- The AND-test (R71 (a)). -/
def testMask (b mask : Byte) : Bool := b &&& mask != 0

/-- The ENABLE byte of four flags (R64). -/
def enableByte (c : Cfg) (f : EnableFlags) : Byte :=
  maskIf f.powerOn c.mPon ||| maskIf f.active c.mAen ||| maskIf f.wait c.mWen ||| maskIf f.interrupts c.mAien

/-- The four flags of an ENABLE byte (R75). -/
def enableFlags (c : Cfg) (b : Byte) : EnableFlags :=
  { powerOn := testMask b c.mPon, active := testMask b c.mAen, wait := testMask b c.mWen,
    interrupts := testMask b c.mAien }

/-- The two flags of a STATUS byte (R68, R104). -/
def statusFlags (c : Cfg) (b : Byte) : StatusFlags :=
  { dataValid := testMask b c.mAvalid, thresholdViolation := testMask b c.mAint }

/-- The long-wait regime is selected by the request alone, by a strict comparison (R81). -/
def longRegime (ms : Q) : Bool := decide (shortMaxMs < ms)

/-- Outside the band, by the strict comparisons of R153. -/
def outsideBand (b : Band) (clear : Word) : Bool :=
  decide (b.high.toNat < clear.toNat) || decide (clear.toNat < b.low.toNat)

/-- The direction (R123): the upper test is made first and wins. -/
def direction (b : Band) (clear : Word) : Direction :=
  if b.high.toNat < clear.toNat then .above else if clear.toNat < b.low.toNat then .below else .inside

/-- The direction as a number (R123). -/
def Direction.sign : Direction → Int
  | .below => -1
  | .inside => 0
  | .above => 1

/-- The direction on its 2-bit port, two's complement (R129, decision D16). -/
def Direction.port : Direction → BitVec 2
  | .below => 0b11
  | .inside => 0b00
  | .above => 0b01

/-- The class codes of R149. -/
def ErrorClass.code : ErrorClass → Nat
  | .rangeError => 1
  | .lengthError => 2
  | .missingOperand => 3
  | .illegalOp => 4

/-- The class code an error shows on the request interface (R148, R149); a failure of the host has none. -/
def Failure.code : Failure → Option Nat
  | .domain e => some e.cls.code
  | .identityMismatch => none
  | .transport => none
  | .peripheral _ => none
  | .anomalousInterrupt => none

/-- A controller bound on its signed 18-bit port (R129, R131, decision D15). -/
def boundPort (v : Int) : BitVec 18 := BitVec.ofInt 18 v

/-- The comparator's condition after a completed cycle (R154): `run` consecutive samples have been outside, `out`
says whether this one was. For the code `every` the two readings are admitted by an open constant (D23). -/
def filterSatisfied (f : Filter) (out : Bool) (run : Nat) : Bool :=
  match f with
  | .every => out || Config.persEveryIgnoresBand
  | .count n => decide (n ≤ run)

end Sys2Proof.Machine
end

