-- ==== Sys2Proof/Machine/Codec.lean ====
section
/-! DEFINITION. The block's operations as functions of their operands and the parameter record: files 40 to 47.
The meanings of the operation rows and the Profile Service are written over these. -/

namespace Sys2Proof.Machine

/-- A range error naming the offending field and value (R149). -/
def rangeError (field : ErrorField) (value : ErrorValue) : OpError :=
  { cls := .rangeError, field := field, value := value }

/-- A length error recording the length supplied (R149). -/
def lengthError (field : ErrorField) (len : Nat) : OpError :=
  { cls := .lengthError, field := field, value := .int len }

/-! ### Timing (R78 to R86) -/

/-- The byte for a count, or the error when the count leaves 1 .. 256 (R78, R82). -/
def encodeCount (field : ErrorField) (ms : TimeOperand) (count : Int) : Except OpError Byte :=
  if count < 1 ∨ 256 < count then .error (rangeError field (.time ms)) else .ok (countByte count)

/-- ENC_ATIME (R78); a non-finite operand is out of domain (R89). -/
def encodeAtime (ms : TimeOperand) : Except OpError Byte :=
  match ms with
  | .finite q => encodeCount .integrationTimeMs ms (floorQ (q / stepMs))
  | .nan => .error (rangeError .integrationTimeMs (.time ms))
  | .posInf => .error (rangeError .integrationTimeMs (.time ms))
  | .negInf => .error (rangeError .integrationTimeMs (.time ms))

/-- DEC_ATIME (R79). -/
def decodeAtime (b : Byte) : IntegrationTiming :=
  { cycles := byteCount b, maxCount := byteCount b * 1024, timeMs := (byteCount b : Q) * stepMs }

/-- The step of the regime (R82). -/
def waitStep (longFlag : Bool) : Q := if longFlag then longStepMs else stepMs

/-- ENC_WTIME (R81, R82); a non-finite operand is out of domain (R89). -/
def encodeWtime (ms : TimeOperand) : Except OpError (Byte × Bool) :=
  match ms with
  | .finite q =>
      (encodeCount .waitTimeMs ms (truncQ (q / waitStep (longRegime q)))).map fun b => (b, longRegime q)
  | .nan => .error (rangeError .waitTimeMs (.time ms))
  | .posInf => .error (rangeError .waitTimeMs (.time ms))
  | .negInf => .error (rangeError .waitTimeMs (.time ms))

/-- DEC_WTIME (R83). -/
def decodeWtime (b : Byte) : WaitTiming := { wtime := b, count := byteCount b }

/-- FMT_WTIME (R84). -/
def formatWtime (count : Int) (longFlag : Bool) : Q := (count : Q) * stepMs * (if longFlag then longMult else 1)

/-- ENC_CONFIG (R85). -/
def encodeConfig (c : Cfg) (longFlag : Bool) : Byte := maskIf longFlag c.mWlong

/-- DEC_CONFIG (R86). -/
def decodeConfig (c : Cfg) (b : Byte) : Bool := testMask b c.mWlong

/-! ### Threshold (R92, R93) -/

/-- The domain of a threshold bound (R92). -/
def inWordRange (v : Int) : Bool := decide (0 ≤ v) && decide (v ≤ 0xFFFF)

/-- The four bytes of a window in range (R66). -/
def bandBytes (b : Band) : List Byte := wordBytes b.low ++ wordBytes b.high

/-- ENC_THRESH (R92): `low` is checked and reported first (decision D20). -/
def encodeThreshold (low high : Int) : Except OpError (List Byte) :=
  if !inWordRange low then .error (rangeError .thresholdLow (.int low))
  else if !inWordRange high then .error (rangeError .thresholdHigh (.int high))
  else .ok (bandBytes { low := BitVec.ofInt 16 low, high := BitVec.ofInt 16 high })

/-- DEC_THRESH (R93): bytes beyond the fourth are ignored. -/
def decodeThreshold (bs : List Byte) : Except OpError Band :=
  if bs.length < 4 then .error (lengthError .threshold bs.length)
  else .ok { low := wordAt bs 0, high := wordAt bs 2 }

/-! ### Persistence and gain (R97, R98, R101, R102) -/

/-- ENC_PERS (R97). -/
def encodePers (c : Cfg) (f : FilterOperand) : Except OpError Byte :=
  match filterKey f with
  | none => .error (rangeError .filtering (.filter f))
  | some k => .ok (placeField c.mApers ((persCodeOf c k).setWidth 8))

/-- DEC_PERS (R98). -/
def decodePers (c : Cfg) (b : Byte) : Filter := persKeyOf c ((extractField c.mApers b).setWidth 4)

/-- ENC_GAIN (R101). -/
def encodeGain (c : Cfg) (m : Int) : Except OpError Byte :=
  match gainCode m with
  | none => .error (rangeError .gain (.int m))
  | some code => .ok (placeField c.mAgain code)

/-- DEC_GAIN (R102). -/
def decodeGain (c : Cfg) (b : Byte) : Int := gainOf (extractField c.mAgain b)

/-! ### Sample and measurement (R106, R108 to R115) -/

/-- DEC_SAMPLE (R106): bytes beyond the eighth are ignored. -/
def decodeSample (bs : List Byte) : Except OpError Sample :=
  if bs.length < 8 then .error (lengthError .sample bs.length)
  else .ok { clear := wordAt bs 0, red := wordAt bs 2, green := wordAt bs 4, blue := wordAt bs 6 }

/-- A channel's count as a rational. -/
def channel (v : Word) : Q := (v.toNat : Q)

/-- `ratio` (R110): each channel over 65535. -/
def ratioOf (s : Sample) : Ratio :=
  { r := channel s.red / 65535, g := channel s.green / 65535, b := channel s.blue / 65535,
    c := channel s.clear / 65535 }

/-- One `rgb` member for a non-zero clear count (R111): truncated, not clamped. -/
def rgbChannel (ch clear : Word) : Int := truncQ (channel ch / channel clear * 255)

/-- `rgb` and the `zero` flag (R111). -/
def rgbOf (s : Sample) : Rgb :=
  if s.clear.toNat = 0 then { r := 0, g := 0, b := 0, zero := true }
  else { r := rgbChannel s.red s.clear, g := rgbChannel s.green s.clear, b := rgbChannel s.blue s.clear,
         zero := false }

/-- `lux` (R112, R113). -/
def luxOf (s : Sample) : QNan :=
  if s.clear.toNat = 0 then .nan else Config.lux s.clear s.red s.green s.blue

/-- `colorTemperatureK` (R112, R114). -/
def cctOf (s : Sample) : QNan :=
  if s.clear.toNat = 0 then .nan else Config.cct s.clear s.red s.green s.blue

/-- DERIVE (R115). -/
def derive (s : Sample) : Measurement :=
  { raw := s, ratio := ratioOf s, rgb := rgbOf s, lux := luxOf s, colorTemperatureK := cctOf s }

/-! ### Command byte (R60, R61, R118) -/

/-- `COMMAND_BIT` (R61). -/
def commandBit : Byte := 0x80

/-- The command byte of three fields in range (R60). -/
def commandByte (address : BitVec 5) (type : BitVec 2) (isCommand : Bool) : Byte :=
  address.setWidth 8 ||| (type.setWidth 8 <<< 5) ||| maskIf isCommand commandBit

/-- MKCMD (R118 to R120); the omitted `isCommand` is true. -/
def makeCommand (c : Cfg) (address : Option Int) (type : BitVec 2) (isCommand : Option Bool) : Except OpError Byte :=
  match address with
  | none => .error { cls := .missingOperand, field := .addressOrFunction, value := .absent }
  | some a =>
      if a < 0 ∨ 0x1F < a then .error (rangeError .addressOrFunction (.int a))
      else if !describedType c type then .error (rangeError .type (.int type.toNat))
      else .ok (commandByte (BitVec.ofInt 5 a) type (isCommand.getD true))

/-! ### Threshold controller (R123 to R128) -/

/-- `range` and `half` (R125): truncated toward zero. -/
def halfRange (b : Band) : Int := ((b.high.toNat : Int) - (b.low.toNat : Int)).tdiv 2

/-- The clamps (R126): each bound by itself. -/
def clampWindow (low high : Int) : Window := { low := max low 0, high := min high 0xFFFF }

/-- The result when the direction is 0 (R124): the window unchanged and unclamped. -/
def unmoved (b : Band) : Window := { low := (b.low.toNat : Int), high := (b.high.toNat : Int) }

/-- The window JUMP gives when the sample is outside (R127). -/
def jumpWindow (b : Band) (clear : Word) : Window :=
  clampWindow ((clear.toNat : Int) - halfRange b) ((clear.toNat : Int) + halfRange b)

/-- The window WALK gives when the sample is outside (R128). -/
def walkWindow (b : Band) (d : Direction) : Window :=
  clampWindow ((b.low.toNat : Int) + d.sign * halfRange b) ((b.high.toNat : Int) + d.sign * halfRange b)

/-- The result record (R129) for a direction and a window. -/
def controllerResult (d : Direction) (w : Window) (clear : Word) : ControllerStep :=
  { newLow := w.low, newHigh := w.high, direction := d, sampleClear := clear }

/-- TSTEP.JUMP (R127). -/
def tstepJump (b : Band) (clear : Word) : ControllerStep :=
  controllerResult (direction b clear) (if direction b clear = .inside then unmoved b else jumpWindow b clear) clear

/-- TSTEP.WALK (R128). -/
def tstepWalk (b : Band) (clear : Word) : ControllerStep :=
  controllerResult (direction b clear)
    (if direction b clear = .inside then unmoved b else walkWindow b (direction b clear)) clear

/-- The controller with the session's strategy (R122). -/
def tstep (st : Strategy) (b : Band) (clear : Word) : ControllerStep :=
  match st with
  | .jump => tstepJump b clear
  | .walk => tstepWalk b clear

/-! ### Profiles (R137, R138) -/

/-- The documented default profile (R137). -/
def defaultProfile : Profile :=
  { powerOn := false, active := false, wait := false, interrupts := true, integrationTimeMs := .finite 0,
    waitTimeMs := .finite 0, threshold := { low := 0, high := 0 }, filtering := .every, gain := 1 }

/-- A profile merged over the default (R137): a supplied field replaces the default's. -/
def mergeProfile (p : PartialProfile) : Profile :=
  { powerOn := p.powerOn.getD defaultProfile.powerOn
    active := p.active.getD defaultProfile.active
    wait := p.wait.getD defaultProfile.wait
    interrupts := p.interrupts.getD defaultProfile.interrupts
    integrationTimeMs := p.integrationTimeMs.getD defaultProfile.integrationTimeMs
    waitTimeMs := p.waitTimeMs.getD defaultProfile.waitTimeMs
    threshold := p.threshold.getD defaultProfile.threshold
    filtering := p.filtering.getD defaultProfile.filtering
    gain := p.gain.getD defaultProfile.gain }

/-- The writes of WR_PROFILE (R138, R139): the encoders in the order of R138, the first error reported. -/
def encodeProfile (c : Cfg) (p : Profile) : Except OpError WriteJob :=
  (encodeAtime p.integrationTimeMs).bind fun a =>
  (encodeWtime p.waitTimeMs).bind fun w =>
  (encodeThreshold p.threshold.low p.threshold.high).bind fun t =>
  (encodePers c p.filtering).bind fun s =>
  (encodeGain c p.gain).map fun g =>
    { pending :=
        [{ address := c.aAtime, type := c.tRepeat, bytes := [a] },
         { address := c.aWtime, type := c.tRepeat, bytes := [w.1] },
         { address := c.aAiltl, type := c.tAutoinc, bytes := t },
         { address := c.aPers, type := c.tRepeat, bytes := [s] },
         { address := c.aConfig, type := c.tRepeat, bytes := [encodeConfig c w.2] },
         { address := c.aControl, type := c.tRepeat, bytes := [g] }],
      enable :=
        { address := c.aEnable, type := c.tRepeat,
          bytes := [enableByte c { powerOn := p.powerOn, active := p.active, wait := p.wait,
                                   interrupts := p.interrupts }] } }

/-- RD_PROFILE's decoding of the 20-byte block (R135): a register's offset is its address less `A_ENABLE`. -/
def decodeProfile (c : Cfg) (blk : List Byte) : Except OpError ProfileReading :=
  let at' := fun (a : BitVec 5) => byteAt blk (a.toNat - c.aEnable.toNat)
  let wt := decodeWtime (at' c.aWtime)
  let wlong := decodeConfig c (at' c.aConfig)
  (decodeThreshold ((blk.drop (c.aAiltl.toNat - c.aEnable.toNat)).take 4)).map fun th =>
    { enable := enableFlags c (at' c.aEnable), integration := decodeAtime (at' c.aAtime), wait := wt,
      wlong := wlong, waitTimeMs := formatWtime wt.count wlong, threshold := th,
      filtering := decodePers c (at' c.aPers), gain := decodeGain c (at' c.aControl),
      status := statusFlags c (at' c.aStatus) }

end Sys2Proof.Machine
end

