-- ==== Sys2Proof/Machine/Ops.lean ====
section
/-! DEFINITION. The shared operations over the state: output ports and errors, memory, the chip's registers as the
host sees them, and the entry to and return from the comparator's handler. The bus primitives are in Bus.lean. -/

namespace Sys2Proof.Machine

/-! ### Output ports (60_exceptions.md R148) -/

/-- An operation returns ok: its result ports are written and err is 0. -/
def State.accept (s : State) (r : Result) : State := { s with out := some r, err := none }

/-- An operation raises: err names the failure and no result port is written (R148). -/
def State.raise (s : State) (f : Failure) : State := { s with err := some f }

/-- What a block operation does with its result or error (R148). -/
def State.settle (s : State) (x : Except OpError Result) : State :=
  match x with
  | .ok r => s.accept r
  | .error e => s.raise (.domain e)

/-- How a host action that may use the bus ends: with a value, with a failure handed to the caller (R147), or with
a step the machine does not have. -/
inductive Slice (α : Type) where
  | ok (a : α) (s : State)
  | fail (f : Failure) (s : State)
  | fault (r : Fault)
  | refused (r : Refusal)

/-- Goes on with the value; a failing step ends the action (R147). -/
def Slice.bind {α β : Type} (x : Slice α) (k : α → State → Slice β) : Slice β :=
  match x with
  | .ok a s => k a s
  | .fail f s => .fail f s
  | .fault r => .fault r
  | .refused r => .refused r

/-- A pure function of the codec inside an action: its error is a domain error of the action (R147, R151). -/
def Slice.ofExcept {α : Type} (x : Except OpError α) (s : State) : Slice α :=
  match x with
  | .ok a => .ok a s
  | .error e => .fail (.domain e) s

/-- The outcome of a step that runs an action and hands its value to the output ports, its failure to the caller. -/
def Slice.outcome {α : Type} (x : Slice α) (f : α → Result) : Res :=
  match x with
  | .ok a s => .next (s.accept (f a))
  | .fail e s => .next (s.raise e)
  | .fault r => .fault r
  | .refused r => .refused r

/-! ### Memory: cells in one canonical form -/

/-- What an unlisted address reads as: its reset byte (R36); an address the list does not reach reads 0, and no
access the machine makes is one. -/
def resetByte (dflt : List Byte) (a : Nat) : Byte := dflt.getD a 0

/-- The byte at an address. -/
def memRead (dflt : List Byte) (m : List Host.Cell) (a : Nat) : Byte :=
  match m with
  | [] => resetByte dflt a
  | (k, b) :: rest => if k = a then b else memRead dflt rest a

/-- No entry for the address. -/
def memErase (m : List Host.Cell) (a : Nat) : List Host.Cell := m.filter fun cell => cell.1 != a

/-- An entry added before the first higher address. -/
def memInsert (m : List Host.Cell) (a : Nat) (b : Byte) : List Host.Cell :=
  match m with
  | [] => [(a, b)]
  | (k, v) :: rest => if a < k then (a, b) :: (k, v) :: rest else (k, v) :: memInsert rest a b

/-- The memory with one byte stored; the value an unlisted address reads as leaves no entry. -/
def memWrite (dflt : List Byte) (m : List Host.Cell) (a : Nat) (b : Byte) : List Host.Cell :=
  if b = resetByte dflt a then memErase m a else memInsert (memErase m a) a b

/-- The canonical form: addresses strictly rising, all inside the register space, no entry equal to what an
unlisted address reads as. -/
def memWf (dflt : List Byte) (m : List Host.Cell) : Bool :=
  decide ((m.map Prod.fst).Pairwise (· < ·)) && m.all fun cell => decide (cell.1 < 32) && cell.2 != resetByte dflt cell.1

/-! ### Registers -/

/-- The byte a register holds. -/
def State.regByte (s : State) (a : Nat) : Byte := memRead s.cfg.resetReg s.chip.reg a

/-- The state with one register byte stored. -/
def State.setReg (s : State) (a : Nat) (b : Byte) : State :=
  { s with chip := { s.chip with reg := memWrite s.cfg.resetReg s.chip.reg a b } }

/-- The state with a block stored at rising addresses (R44). -/
def State.setRegs (s : State) (a : Nat) (bs : List Byte) : State :=
  match bs with
  | [] => s
  | b :: rest => (s.setReg a b).setRegs (a + 1) rest

/-- The flags ENABLE holds (R21). -/
def State.enableNow (s : State) : EnableFlags := enableFlags s.cfg (s.regByte s.cfg.aEnable.toNat)

/-- The window the threshold registers hold (R24). -/
def State.bandNow (s : State) : Band :=
  { low := le16 (s.regByte s.cfg.aAiltl.toNat) (s.regByte (s.cfg.aAiltl.toNat + 1))
    high := le16 (s.regByte (s.cfg.aAiltl.toNat + 2)) (s.regByte (s.cfg.aAiltl.toNat + 3)) }

/-- The persistence value PERS holds (R25). -/
def State.filterNow (s : State) : Filter := decodePers s.cfg (s.regByte s.cfg.aPers.toNat)

/-- STATUS as it stands at a read: while ENABLE `interrupts` is set, `thresholdViolation` shows the latch (R155);
while it is clear, whatever the chip last put there (N15, U21; log 17). -/
def State.statusByte (s : State) : Byte :=
  if s.enableNow.interrupts then
    (s.regByte s.cfg.aStatus.toNat &&& ~~~s.cfg.mAint) ||| maskIf s.chip.latch s.cfg.mAint
  else s.regByte s.cfg.aStatus.toNat

/-- The byte that stands at an address. -/
def State.heldByte (s : State) (a : Nat) : Byte := if a = s.cfg.aStatus.toNat then s.statusByte else s.regByte a

/-- What a read by the host finds at an address: the bits the rules describe (R49), and any value in the others, be
it a reserved register or reserved bits (R19, U3, U5; log 6). -/
def State.hostByte (s : State) (a : Nat) : Byte :=
  blend (describedBits s.cfg a) (s.heldByte a) (Config.reservedByte s.draws a)

/-- The interrupt condition is cleared and the comparator re-armed (R155); whether the persistence count restarts is
open (log 16). -/
def State.clearLatch (s : State) : State :=
  { s with chip := { s.chip with latch := false, run := if Config.clearRestartsRun then 0 else s.chip.run } }

/-- The interrupt line: the latch, when enabled (R155, R156). That clearing ENABLE `interrupts` takes the line down with
the condition still latched is the model's reading of "when enabled" (log 40). -/
def State.lineLevel (s : State) : Bool := s.chip.latch && s.enableNow.interrupts

/-! ### Answers, picks, draws -/

/-- The environment's answer to the coming request. -/
def State.answer (s : State) : Answer := s.answers.headD .ok

/-- The state once the coming request has been answered. -/
def State.answered (s : State) : State := { s with answers := s.answers.tail, draws := s.draws + 1 }

/-- How the coming free choice falls. -/
def State.pick (s : State) : Nat := s.picks.headD 0

/-- The state once the coming free choice has fallen. -/
def State.picked (s : State) : State := { s with picks := s.picks.tail }

/-! ### The comparator interrupt: edge, entry, return (R156, R158, R166, R167) -/

/-- The pending edge of the watcher. -/
def State.setEdge (s : State) (seen : Bool) : State := { s with session := { s.session with edge := seen } }

/-- What the watcher makes of a step (R156). A rising edge of the line is seen: the condition is newly latched and on the
line. While the latch is set no further edge is seen, also when interrupts are masked and enabled again: only a clear
makes the next one possible (R156, R167, R185, U18; log 40). A clear, whoever issues it, ends an edge that no handler has
taken up yet, since the latch is set whenever the handler is entered (R166; log 23). -/
def observeEdge (before after : State) : State :=
  if after.session.watcher && after.lineLevel && !before.chip.latch then after.setEdge true
  else if before.chip.latch && !after.chip.latch then after.setEdge false
  else after

/-- The chip's state at entry to the handler (R166): latch set, and STATUS `thresholdViolation` set. While interrupts are
enabled the second follows from the first (R155); while they are masked the bit is the chip's choice (U21), and a seen
edge waits until it is set (log 23). -/
def State.violationStands (s : State) : Bool :=
  s.chip.latch && (statusFlags s.cfg s.statusByte).thresholdViolation

/-- Taking the interrupt saves no state and changes no mode: the one handler starts (R166). -/
def State.enterHandler (s : State) : State :=
  { s with session := { s.session with edge := false, irq := some .readBoth } }

/-- The handler returns by finishing (R167). -/
def State.leaveHandler (s : State) : State := { s with session := { s.session with irq := none } }

/-- A condition is logged (R172). -/
def State.logged (s : State) (who : Activity) (f : Failure) : State := { s with log := (who, f) :: s.log }

/-- An event is emitted (R159). -/
def State.emit (s : State) (e : HostEvent) : State := { s with events := e :: s.events }

end Sys2Proof.Machine
end

