-- ==== Sys2Proof/Machine/Command.lean ====
section
/-! DEFINITION. Command-byte construction (46_command.md). -/

namespace Sys2Proof.Machine

/-- MKCMD (R118). -/
def execMkcmd (addressOrFunction : Option Int) (type : BitVec 2) (isCommand : Option Bool) (s : State) : Res :=
  .next (s.settle ((makeCommand s.cfg addressOrFunction type isCommand).map Result.command))

end Sys2Proof.Machine
end

