-- ==== Sys2Proof/Machine/Controller.lean ====
section
/-! DEFINITION. The threshold controller (47_threshold_controller.md). -/

namespace Sys2Proof.Machine

/-- TSTEP.JUMP (R127). -/
def execTstepJump (low high sampleClear : Word) (s : State) : Res :=
  .next (s.accept (.controllerStep (tstepJump { low := low, high := high } sampleClear)))

/-- TSTEP.WALK (R128). -/
def execTstepWalk (low high sampleClear : Word) (s : State) : Res :=
  .next (s.accept (.controllerStep (tstepWalk { low := low, high := high } sampleClear)))

end Sys2Proof.Machine
end

