-- ==== Sys2Proof/Machine/Derived.lean ====
section
/-! DEFINITION. Codec family 6, the derived measurement (45_measurement.md). -/

namespace Sys2Proof.Machine

/-- DERIVE (R115). -/
def execDerive (clear red green blue : Word) (s : State) : Res :=
  .next (s.accept (.measurement (derive { clear := clear, red := red, green := green, blue := blue })))

end Sys2Proof.Machine
end

