-- ==== Sys2Proof/Machine/Enable.lean ====
section
/-! DEFINITION. Codec family 1, enable flags (40_codec_enable.md). -/

namespace Sys2Proof.Machine

/-- ENC_ENABLE (R74). -/
def execEncEnable (powerOn active wait interrupts : Bool) (s : State) : Res :=
  .next (s.accept (.byte (enableByte s.cfg
    { powerOn := powerOn, active := active, wait := wait, interrupts := interrupts })))

/-- DEC_ENABLE (R75). -/
def execDecEnable (byte : Byte) (s : State) : Res := .next (s.accept (.enableFlags (enableFlags s.cfg byte)))

end Sys2Proof.Machine
end

