-- ==== Sys2Proof/Machine/Enumerations.lean ====
section
/-! DEFINITION. Codec family 4, the persistence and gain enumerations (43_codec_enums.md). -/

namespace Sys2Proof.Machine

/-- ENC_PERS (R97). -/
def execEncPers (filter : FilterOperand) (s : State) : Res :=
  .next (s.settle ((encodePers s.cfg filter).map Result.byte))

/-- DEC_PERS (R98). -/
def execDecPers (byte : Byte) (s : State) : Res := .next (s.accept (.filter (decodePers s.cfg byte)))

/-- ENC_GAIN (R101). -/
def execEncGain (multiplier : Int) (s : State) : Res :=
  .next (s.settle ((encodeGain s.cfg multiplier).map Result.byte))

/-- DEC_GAIN (R102). -/
def execDecGain (byte : Byte) (s : State) : Res := .next (s.accept (.multiplier (decodeGain s.cfg byte)))

end Sys2Proof.Machine
end

