-- ==== Sys2Proof/Machine/ChipSide.lean ====
section
/-! DEFINITION. The chip as an environment agent (00_scope.md R6 (3), decision D32; 60_exceptions.md R153 to R155). -/

namespace Sys2Proof.Machine

/-- The chip puts a new byte into STATUS and a new sample into the data registers (R29, R30). -/
def State.chipStores (s : State) (status : Byte) (sample : Sample) : State :=
  (s.setReg s.cfg.aStatus.toNat status).setRegs s.cfg.aCdatal.toNat (sampleBytes sample)

/-- The count of consecutive out-of-band samples after one more (R154): a sample inside the band restarts it. -/
def nextRun (out : Bool) (run : Nat) : Nat := if out then run + 1 else 0

/-- The comparator looks at a completed sample (R153, R154). The condition stays latched once set (R155); while
ENABLE `interrupts` is clear, whether it may be set is the environment's choice (log 17). -/
def State.compare (s : State) (clear : Word) (latchWhileMasked : Bool) : State :=
  { s with chip := { s.chip with
      run := nextRun (outsideBand s.bandNow clear) s.chip.run
      latch := s.chip.latch ||
        (filterSatisfied s.filterNow (outsideBand s.bandNow clear)
            (nextRun (outsideBand s.bandNow clear) s.chip.run)
          && (s.enableNow.interrupts || latchWhileMasked)) } }

/-- ENABLE tells the chip to convert: its power is `powerOn` and `active` (R21, R173). -/
def State.converting (s : State) : Bool := s.enableNow.powerOn && s.enableNow.active

/-- The count of consecutive outside samples is lost. -/
def State.forgetRun (s : State) : State := { s with chip := { s.chip with run := 0 } }

/-- The chip acts. An integration cycle completes only while ENABLE tells the chip to convert (R21, R173; log 18).
DESIGN CHOICE (log 42): what survives the chip's power-off is not in the source (R173). The model keeps the register
file (R49) and the latch (R155) through it, and leaves the count of consecutive outside samples to the environment:
while conversion is off the chip may lose it at any move, or keep it and go on from it. -/
def chipActs (act : ChipAct) (s : State) : State :=
  match act with
  | .update status sample => s.chipStores status sample
  | .cycle status sample latchWhileMasked =>
      if s.converting then (s.chipStores status sample).compare sample.clear latchWhileMasked else s
  | .forgetRun => if s.converting then s else s.forgetRun

end Sys2Proof.Machine
end

