-- ==== Sys2Proof/Machine/Bus.lean ====
section
/-! DEFINITION. The bus (20_memory.md R40): command bytes taken apart, what the chip does between the accesses of a
repeated read, the three primitives, and transfers whose command byte MKCMD builds. -/

namespace Sys2Proof.Machine

/-! ### Command bytes -/

/-- The indicator bit of a command byte (R60). -/
def cmdIndicator (cmd : Byte) : Bool := testMask cmd commandBit

/-- The type field of a command byte (R60). -/
def cmdType (cmd : Byte) : BitVec 2 := cmd.extractLsb' 5 2

/-- The address or function field of a command byte (R60). -/
def cmdAddress (cmd : Byte) : BitVec 5 := cmd.extractLsb' 0 5

/-! ### Between the accesses of a repeated read (R45) -/

/-- What the chip does between two accesses of a repeated read: the environment's next interlude. The accesses are
successive reads, so each draws its free values anew (log 6). -/
def State.interlude (s : State) : State :=
  (s.interludes.headD []).foldl (fun t act => chipActs act t)
    { s with interludes := s.interludes.tail, draws := s.draws + 1 }

/-- The state after so many interludes. -/
def State.afterInterludes (s : State) (n : Nat) : State :=
  match n with
  | 0 => s
  | k + 1 => (s.afterInterludes k).interlude

/-! ### The primitives -/

/-- The bytes of a read, as the transport answers (R40, R142). -/
def State.answerRead (s : State) (bs : List Byte) : Slice (List Byte) :=
  match s.answer with
  | .ok => .ok bs s.answered
  | .short n => .ok (bs.take n) s.answered
  | .fail _ => .fail .transport s.answered

/-- BusRead (R40). An auto-increment read is one snapshot of rising addresses (R44, decision D28). A repeated-byte read of
`n` bytes is `n` successive reads of one register, between which the chip may act (R45): its `i`-th access finds the
register after `i` interludes, and what the chip has done by the last access stays done (log 11). -/
def busRead (cmd : Byte) (n : Nat) (s : State) : Slice (List Byte) :=
  if !cmdIndicator cmd then .refused (.indicatorClear cmd)
  else if cmdType cmd = s.cfg.tAutoinc then
    if 32 < (cmdAddress cmd).toNat + n then .fault (.pastRegisterSpace (cmdAddress cmd).toNat n)
    else s.answerRead ((List.range n).map fun i => s.hostByte ((cmdAddress cmd).toNat + i))
  else if cmdType cmd = s.cfg.tRepeat then
    (s.afterInterludes (n - 1)).answerRead ((List.range n).map fun i => (s.afterInterludes i).hostByte (cmdAddress cmd).toNat)
  else .refused (.typeUndescribed cmd)

/-- The bytes of a failed write that reached the chip all the same: any of them but ENABLE's (R40, U6). -/
def State.landRegs (s : State) (a : Nat) (bs : List Byte) (landed : List Bool) : State :=
  match bs with
  | [] => s
  | b :: rest =>
      (if landed.headD false && a != s.cfg.aEnable.toNat then s.setReg a b else s).landRegs (a + 1) rest landed.tail

/-- A write as the transport answers (R40, U6). -/
def State.answerWrite (s : State) (a : Nat) (bs : List Byte) : Slice Unit :=
  match s.answer with
  | .ok => .ok () (s.answered.setRegs a bs)
  | .short _ => .ok () (s.answered.setRegs a bs)
  | .fail landed => .fail .transport (s.answered.landRegs a bs landed)

/-- The first address of a write that the host may not write (R19, R28 to R30, U3). -/
def forbiddenWrite (c : Cfg) (a n : Nat) : Option Nat :=
  ((List.range n).map (a + ·)).find? fun x => !(hostWritten c).contains x

/-- The refusal of a write to a forbidden address. -/
def writeRefusal (c : Cfg) (a : Nat) : Refusal :=
  if a ∈ readOnly c then .readOnlyWrite a else .reservedWrite a

/-- A write of whole bytes from an address on, inside the register space. -/
def State.writeFrom (s : State) (a : Nat) (bs : List Byte) : Slice Unit :=
  match forbiddenWrite s.cfg a bs.length with
  | some x => .refused (writeRefusal s.cfg x)
  | none => s.answerWrite a bs

/-- BusWrite (R40, R44, R45). -/
def busWrite (cmd : Byte) (bs : List Byte) (s : State) : Slice Unit :=
  if !cmdIndicator cmd then .refused (.indicatorClear cmd)
  else if cmdType cmd = s.cfg.tAutoinc then
    if 32 < (cmdAddress cmd).toNat + bs.length then .fault (.pastRegisterSpace (cmdAddress cmd).toNat bs.length)
    else s.writeFrom (cmdAddress cmd).toNat bs
  else if cmdType cmd = s.cfg.tRepeat then
    if 1 < bs.length then .refused (.repeatedWrite bs.length)
    else s.writeFrom (cmdAddress cmd).toNat bs
  else .refused (.typeUndescribed cmd)

/-- The "clear interrupt" function as the transport answers (R40, R155, U6). -/
def State.answerClear (s : State) : Slice Unit :=
  match s.answer with
  | .ok => .ok () s.answered.clearLatch
  | .short _ => .ok () s.answered.clearLatch
  | .fail landed => .fail .transport (if landed.headD false then s.answered.clearLatch else s.answered)

/-- BusSpecial (R37, R40). -/
def busSpecial (cmd : Byte) (s : State) : Slice Unit :=
  if !cmdIndicator cmd then .refused (.indicatorClear cmd)
  else if cmdType cmd ≠ s.cfg.tSpecial then .refused (.typeUndescribed cmd)
  else if cmdAddress cmd ≠ s.cfg.fClear then .refused (.reservedFunction (cmdAddress cmd))
  else s.answerClear

/-- A read whose command byte MKCMD builds (R134). -/
def readRegs (address : BitVec 5) (type : BitVec 2) (n : Nat) (s : State) : Slice (List Byte) :=
  (Slice.ofExcept (makeCommand s.cfg (some address.toNat) type none) s).bind fun cmd t => busRead cmd n t

/-- A write whose command byte MKCMD builds (R134). -/
def writeRegs (w : RegWrite) (s : State) : Slice Unit :=
  (Slice.ofExcept (makeCommand s.cfg (some w.address.toNat) w.type none) s).bind fun cmd t => busWrite cmd w.bytes t

/-- The clear command, whose byte MKCMD builds (R140). -/
def sendClear (s : State) : Slice Unit :=
  (Slice.ofExcept (makeCommand s.cfg (some s.cfg.fClear.toNat) s.cfg.tSpecial none) s).bind fun cmd t =>
    busSpecial cmd t

end Sys2Proof.Machine
end

