-- ==== Sys2Proof/Machine/Profile.lean ====
section
/-! DEFINITION. The Profile Service (48_profile_service.md): each pseudo-operation as an action over the bus, and its
meaning as a step of the foreground. -/

namespace Sys2Proof.Machine

/-! ### The actions, shared by the foreground, the setup sequence and the two service paths -/

/-- RD_PROFILE (R135, R136). A read the transport cuts short is a rejected one (log 10). -/
def rdProfile (s : State) : Slice ProfileReading :=
  (readRegs s.cfg.aEnable s.cfg.tAutoinc 20 s).bind fun blk t =>
    if blk.length < 20 then .fail .transport t else Slice.ofExcept (decodeProfile t.cfg blk) t

/-- RD_THRESH (R142). -/
def rdThresh (s : State) : Slice Band :=
  (readRegs s.cfg.aAiltl s.cfg.tAutoinc 4 s).bind fun bs t => Slice.ofExcept (decodeThreshold bs) t

/-- The byte of a one-byte read. A read the transport cuts short is a rejected one (log 10). -/
def rdByte (address : BitVec 5) (s : State) : Slice Byte :=
  (readRegs address s.cfg.tRepeat 1 s).bind fun bs t =>
    match bs with
    | [] => .fail .transport t
    | b :: _ => .ok b t

/-- RD_ID (R143). -/
def rdId (s : State) : Slice Byte := rdByte s.cfg.aId s

/-- RD_STATUS (R144). -/
def rdStatus (s : State) : Slice StatusFlags :=
  (rdByte s.cfg.aStatus s).bind fun b t => .ok (statusFlags t.cfg b) t

/-- RD_DATA (R145): the sample and its measurement. -/
def rdData (s : State) : Slice (Sample × Measurement) :=
  (readRegs s.cfg.aCdatal s.cfg.tAutoinc 8 s).bind fun bs t =>
    (Slice.ofExcept (decodeSample bs) t).bind fun sample u => .ok (sample, derive sample) u

/-- WR_THRESH (R141): a range error writes nothing. -/
def wrThresh (low high : Int) (s : State) : Slice Unit :=
  (Slice.ofExcept (encodeThreshold low high) s).bind fun bs t =>
    writeRegs { address := t.cfg.aAiltl, type := t.cfg.tAutoinc, bytes := bs } t

/-- CLR_INT (R140). -/
def clrInt (s : State) : Slice Unit := sendClear s

/-- One bus write of a WR_PROFILE (R139, R51): one of the component writes left, whichever the environment picks,
or, when none is left, ENABLE; `none` once ENABLE is written. -/
def continueJob (job : WriteJob) (s : State) : Slice (Option WriteJob) :=
  match job.pending with
  | [] => (writeRegs job.enable s).bind fun _ t => .ok none t
  | w :: ws =>
      (writeRegs ((w :: ws).getD (s.pick % (w :: ws).length) w) s.picked).bind fun _ t =>
        .ok (some { job with pending := (w :: ws).eraseIdx (s.pick % (w :: ws).length) }) t

/-! ### The meanings -/

/-- RD_PROFILE (R135, R136). -/
def execRdProfile (s : State) : Res := (rdProfile s).outcome Result.profileReading

/-- One write of a foreground WR_PROFILE; the job is over with ENABLE's write or at the first failure (R139, R147). -/
def advanceJob (job : WriteJob) (s : State) : Res :=
  match continueJob job s with
  | .ok none t => .next ({ t with job := none }.accept .acknowledged)
  | .ok (some rest) t => .next { t with job := some rest }
  | .fail f t => .next ({ t with job := none }.raise f)
  | .fault r => .fault r
  | .refused r => .refused r

/-- WR_PROFILE (R137 to R139), up to and including its next bus write: a pseudo-operation is a sequence of steps,
each bus primitive being one step and a suspension point (R134). The first of these steps merges and encodes. -/
def execWrProfile (profile : PartialProfile) (s : State) : Res :=
  match s.job with
  | some job => advanceJob job s
  | none =>
      match encodeProfile s.cfg (mergeProfile profile) with
      | .error e => .next (s.raise (.domain e))
      | .ok job => advanceJob job s

/-- CLR_INT (R140). -/
def execClrInt (s : State) : Res := (clrInt s).outcome fun _ => .acknowledged

/-- WR_THRESH (R141). -/
def execWrThresh (low high : Int) (s : State) : Res := (wrThresh low high s).outcome fun _ => .acknowledged

/-- RD_THRESH (R142). -/
def execRdThresh (s : State) : Res := (rdThresh s).outcome Result.band

/-- RD_ID (R143). -/
def execRdId (s : State) : Res := (rdId s).outcome Result.byte

/-- RD_STATUS (R144). -/
def execRdStatus (s : State) : Res := (rdStatus s).outcome Result.statusFlags

/-- RD_DATA (R145). -/
def execRdData (s : State) : Res := (rdData s).outcome fun d => .data d.1 d.2

end Sys2Proof.Machine
end

