-- ==== Sys2Proof/Machine/StatusSample.lean ====
section
/-! DEFINITION. Codec family 5, status flags and raw sample (44_codec_status_sample.md). -/

namespace Sys2Proof.Machine

/-- DEC_STATUS (R104). -/
def execDecStatus (byte : Byte) (s : State) : Res := .next (s.accept (.statusFlags (statusFlags s.cfg byte)))

/-- DEC_SAMPLE (R106). -/
def execDecSample (bytes : List Byte) (s : State) : Res := .next (s.settle ((decodeSample bytes).map Result.sample))

end Sys2Proof.Machine
end

