-- ==== Sys2Proof/Machine/Threshold.lean ====
section
/-! DEFINITION. Codec family 3, the comparator threshold pair (42_codec_threshold.md). -/

namespace Sys2Proof.Machine

/-- ENC_THRESH (R92). -/
def execEncThresh (low high : Int) (s : State) : Res := .next (s.settle ((encodeThreshold low high).map Result.bytes))

/-- DEC_THRESH (R93). -/
def execDecThresh (bytes : List Byte) (s : State) : Res := .next (s.settle ((decodeThreshold bytes).map Result.band))

end Sys2Proof.Machine
end

