-- ==== Sys2Proof/Machine/Timing.lean ====
section
/-! DEFINITION. Codec family 2, integration time, wait time and the long-wait flag (41_codec_timing.md). -/

namespace Sys2Proof.Machine

/-- ENC_ATIME (R78). -/
def execEncAtime (ms : TimeOperand) (s : State) : Res := .next (s.settle ((encodeAtime ms).map Result.byte))

/-- DEC_ATIME (R79). -/
def execDecAtime (byte : Byte) (s : State) : Res := .next (s.accept (.integrationTiming (decodeAtime byte)))

/-- ENC_WTIME (R82). -/
def execEncWtime (ms : TimeOperand) (s : State) : Res :=
  .next (s.settle ((encodeWtime ms).map fun w => .byteAndLongFlag w.1 w.2))

/-- DEC_WTIME (R83). -/
def execDecWtime (byte : Byte) (s : State) : Res := .next (s.accept (.waitTiming (decodeWtime byte)))

/-- FMT_WTIME (R84). -/
def execFmtWtime (count : Int) (longFlag : Bool) (s : State) : Res :=
  .next (s.accept (.timeMs (formatWtime count longFlag)))

/-- ENC_CONFIG (R85). -/
def execEncConfig (longFlag : Bool) (s : State) : Res := .next (s.accept (.byte (encodeConfig s.cfg longFlag)))

/-- DEC_CONFIG (R86). -/
def execDecConfig (byte : Byte) (s : State) : Res := .next (s.accept (.wlong (decodeConfig s.cfg byte)))

end Sys2Proof.Machine
end

