-- ==== Sys2Proof/Machine/Dispatch.lean ====
section
/-! DEFINITION. One arm per operation of the table. -/

namespace Sys2Proof.Machine

def exec (i : Instr) (s : State) : Host.Outcome State Fault Refusal :=
  match i with
  | .encEnable powerOn active wait interrupts => Sys2Proof.Machine.execEncEnable powerOn active wait interrupts s
  | .decEnable byte => Sys2Proof.Machine.execDecEnable byte s
  | .encAtime ms => Sys2Proof.Machine.execEncAtime ms s
  | .decAtime byte => Sys2Proof.Machine.execDecAtime byte s
  | .encWtime ms => Sys2Proof.Machine.execEncWtime ms s
  | .decWtime byte => Sys2Proof.Machine.execDecWtime byte s
  | .fmtWtime count longFlag => Sys2Proof.Machine.execFmtWtime count longFlag s
  | .encConfig longFlag => Sys2Proof.Machine.execEncConfig longFlag s
  | .decConfig byte => Sys2Proof.Machine.execDecConfig byte s
  | .encThresh low high => Sys2Proof.Machine.execEncThresh low high s
  | .decThresh bytes => Sys2Proof.Machine.execDecThresh bytes s
  | .encPers filter => Sys2Proof.Machine.execEncPers filter s
  | .decPers byte => Sys2Proof.Machine.execDecPers byte s
  | .encGain multiplier => Sys2Proof.Machine.execEncGain multiplier s
  | .decGain byte => Sys2Proof.Machine.execDecGain byte s
  | .decStatus byte => Sys2Proof.Machine.execDecStatus byte s
  | .decSample bytes => Sys2Proof.Machine.execDecSample bytes s
  | .deriveMeasurement clear red green blue => Sys2Proof.Machine.execDerive clear red green blue s
  | .mkcmd addressOrFunction type isCommand => Sys2Proof.Machine.execMkcmd addressOrFunction type isCommand s
  | .tstepJump low high sampleClear => Sys2Proof.Machine.execTstepJump low high sampleClear s
  | .tstepWalk low high sampleClear => Sys2Proof.Machine.execTstepWalk low high sampleClear s
  | .rdProfile => Sys2Proof.Machine.execRdProfile s
  | .wrProfile profile => Sys2Proof.Machine.execWrProfile profile s
  | .clrInt => Sys2Proof.Machine.execClrInt s
  | .wrThresh low high => Sys2Proof.Machine.execWrThresh low high s
  | .rdThresh => Sys2Proof.Machine.execRdThresh s
  | .rdId => Sys2Proof.Machine.execRdId s
  | .rdStatus => Sys2Proof.Machine.execRdStatus s
  | .rdData => Sys2Proof.Machine.execRdData s

end Sys2Proof.Machine
end

