-- ==== Sys2Proof/Machine/Services.lean ====
section
/-! DEFINITION. The host session (60_exceptions.md): the service sequence and its two paths, the lifecycle, and the
turn each agent takes. Every turn issues at most one bus primitive. -/

namespace Sys2Proof.Machine

/-- The end of an activity's turn: its progress is kept, and a failure ends the activity and is logged (R152). -/
def endTurn {α : Type} (who : Activity) (x : Slice (Option α)) (keep : State → Option α → State) : Res :=
  match x with
  | .ok p s => .next (keep s p)
  | .fail f s => .next ((keep s none).logged who f)
  | .fault r => .fault r
  | .refused r => .refused r

/-- An activity whose bus handle has been released finds its request rejected (R164; log 26). -/
def withBus {α : Type} (s : State) (x : Slice α) : Slice α := if s.session.bus then x else .fail .transport s

/-! ### The service sequence (R158) -/

/-- The step event (R158 step 5, R159), with the host's time stamp. -/
def State.emitStep (s : State) (r : ControllerStep) : State :=
  { s with draws := s.draws + 1 }.emit
    (.step { low := r.newLow, high := r.newHigh } r.direction r.sampleClear (Config.timestamp s.draws))

/-- R158 steps 3 to 5 up to the next suspension point: compute the direction; a window that moves is to be written;
with direction 0 the condition is logged and the redundant write is the environment's choice (decision D31). -/
def decideService (who : Activity) (st : Strategy) (b : Band) (clear : Word) (s : State) : Slice (Option ServicePhase) :=
  if (tstep st b clear).direction = .inside then
    if s.pick % 2 = 1 then .ok (some (.rewrite (tstep st b clear))) (s.picked.logged who .anomalousInterrupt)
    else .ok (some .clear) ((s.picked.logged who .anomalousInterrupt).emitStep (tstep st b clear))
  else .ok (some (.write (tstep st b clear))) s

/-- The session's copy of the window follows the controller's output once an adaptation is written back (R34). DESIGN
CHOICE (log 44): the last known profile stays, its threshold member too. -/
def State.adoptWindow (s : State) (r : ControllerStep) : State :=
  { s with session := { s.session with window := some { low := r.newLow, high := r.newHigh } } }

/-- One step of the service sequence (R158); the two reads fall in either order. DESIGN CHOICE (log 43): the redundant
rewrite on direction 0 (decision D31) leaves the session's copy of the window as it was, also when the copy differs from
the registers, because no adaptation has taken place (R34: "after each adaptation"; R124). -/
def serviceSlice (who : Activity) (st : Strategy) (p : ServicePhase) (s : State) : Slice (Option ServicePhase) :=
  match p with
  | .readBoth =>
      if s.pick % 2 = 0 then (rdThresh s.picked).bind fun b t => .ok (some (.readSample b)) t
      else (rdData s.picked).bind fun d t => .ok (some (.readThreshold d.1.clear)) t
  | .readSample b => (rdData s).bind fun d t => decideService who st b d.1.clear t
  | .readThreshold clear => (rdThresh s).bind fun b t => decideService who st b clear t
  | .write r => (wrThresh r.newLow r.newHigh s).bind fun _ t => .ok (some .clear) ((t.adoptWindow r).emitStep r)
  | .rewrite r => (wrThresh r.newLow r.newHigh s).bind fun _ t => .ok (some .clear) (t.emitStep r)
  | .clear => (clrInt s).bind fun _ t => .ok none t

/-! ### The interrupt path (R156, R158, R166, R167) -/

/-- The interrupt path's progress. -/
def State.setIrq (s : State) (p : Option ServicePhase) : State := { s with session := { s.session with irq := p } }

/-- A turn of the interrupt path: the handler in progress goes on; with none, a seen edge starts it, in the chip state
R166 gives at entry. -/
def irqTurn (s : State) : Res :=
  match s.session.irq with
  | some p =>
      match s.session.config with
      | some hc => endTurn .irq (withBus s (serviceSlice .irq hc.strategy p s)) State.setIrq
      | none => .next s.leaveHandler
  | none =>
      if s.session.watcher && s.session.edge && s.violationStands then .next s.enterHandler else .next s

/-! ### The poll path (R157) -/

/-- The poll path's progress. -/
def State.setPoll (s : State) (p : Option PollPhase) : State := { s with session := { s.session with poll := p } }

/-- The LED switched, when its handle is held (R157, R170). -/
def State.setLed (s : State) (lit : Bool) : State :=
  { s with session := { s.session with led := s.session.led.map fun _ => lit } }

/-- Whether what the poll read shows a threshold violation (R157). -/
def PollResult.violation : PollResult → Bool
  | .status f => f.thresholdViolation
  | .profile p => p.status.thresholdViolation

/-- The window of the software interrupt when it needs no read (decision D27): the profile just read, or the
session's copy; otherwise a fresh read (log 25). -/
def softwareWindow (hc : HostConfig) (r : PollResult) (s : State) : Option Band :=
  match hc.windowSource with
  | .freshRead => none
  | .profileRead =>
      match r with
      | .profile p => some p.threshold
      | .status _ => none
  | .sessionCopy => s.session.window.map fun w => { low := BitVec.ofInt 16 w.low, high := BitVec.ofInt 16 w.high }

/-- After the data read (R157): emit the data event, and serve a violation when software interrupts are enabled. DESIGN
CHOICE (log 44): what the poll has read, also a full profile, goes into the event and does not refresh the session's last
known profile or its copy of the window (R33 and R34 name no such refresh). -/
def afterData (hc : HostConfig) (r : PollResult) (d : Sample × Measurement) (s : State) : Slice (Option PollPhase) :=
  let t := (s.setLed false).emit (.data d.2 r)
  if r.violation && hc.softwareInterrupt then
    match softwareWindow hc r t with
    | some b => (decideService .poll hc.strategy b d.1.clear t).bind fun p u => .ok (p.map PollPhase.service) u
    | none => .ok (some (.service (.readThreshold d.1.clear))) t
  else .ok none t

/-- After the poll read (R157): the LED is lit for the configured delay, or the delay and the LED are skipped. -/
def afterPollRead (hc : HostConfig) (r : PollResult) (s : State) : Slice (Option PollPhase) :=
  if hc.ledDelayMs.isSome && s.session.led.isSome then .ok (some (.ledDelay r)) (s.setLed true)
  else .ok (some (.readData r)) s

/-- What the poll reads (R157: configurable). -/
def pollRead (hc : HostConfig) (s : State) : Slice PollResult :=
  match hc.pollMode with
  | .status => (rdStatus s).bind fun f t => .ok (.status f) t
  | .profile => (rdProfile s).bind fun p t => .ok (.profile p) t

/-- One step of the poll path (R157). -/
def pollSlice (hc : HostConfig) (p : PollPhase) (s : State) : Slice (Option PollPhase) :=
  match p with
  | .read => (pollRead hc s).bind (afterPollRead hc)
  | .ledDelay r => .ok (some (.readData r)) s
  | .readData r => (rdData s).bind (afterData hc r)
  | .service q => (serviceSlice .poll hc.strategy q s).bind fun q' t => .ok (q'.map PollPhase.service) t

/-- A turn of the poll path. -/
def pollTurn (s : State) : Res :=
  match s.session.poll with
  | some p =>
      match s.session.config with
      | some hc => endTurn .poll (withBus s (pollSlice hc p s)) State.setPoll
      | none => .next (s.setPoll none)
  | none => .next s

/-- The poll timer fires (R157): a tick starts the poll path unless one is still in progress (log 24). -/
def pollFires (s : State) : State :=
  if s.session.lifecycle = .running ∧ s.session.pollTimer.isSome ∧ s.session.poll = none then s.setPoll (some .read)
  else s

/-! ### The lifecycle (R160 to R164) -/

/-- A failure during setup (R163): what was acquired is released and exactly one retry timer is armed. -/
def State.setupFailed (s : State) (f : Failure) : State :=
  { s with session := { s.session with
      lifecycle := .retryWaiting, bus := false, led := none, line := false, applying := none,
      retryTimer := some Config.retryInterval } }.logged .setup f

/-- Whether an answer grants a request. -/
def Answer.granted : Answer → Bool
  | .ok => true
  | .short _ => true
  | .fail _ => false

/-- Bus acquisition (R162, `Connecting → VerifyingIdentity`). -/
def connect (s : State) : State :=
  if s.answer.granted then
    { s.answered with session := { s.session with lifecycle := .verifyingIdentity, bus := true } }
  else s.answered.setupFailed .transport

/-- Acquisition of the optional LED (R162, R170): a failure is logged and disables it. -/
def acquireLed (hc : HostConfig) (s : State) : State :=
  if hc.ledEnabled then
    if s.answer.granted then { s.answered with session := { s.session with led := some false } }
    else s.answered.logged .setup (.peripheral .led)
  else s

/-- Acquisition of the optional interrupt line (R162, R170): a failure is logged and disables it. -/
def acquireLine (hc : HostConfig) (s : State) : State :=
  if hc.lineEnabled then
    if s.answer.granted then { s.answered with session := { s.session with line := true } }
    else s.answered.logged .setup (.peripheral .interruptLine)
  else s

/-- Identity confirmed (R162, `VerifyingIdentity → ApplyingProfile`). -/
def identityConfirmed (hc : HostConfig) (s : State) : State :=
  let t := acquireLine hc (acquireLed hc s)
  { t with session := { t.session with lifecycle := .applyingProfile } }

/-- The identity byte compared with `CHIP_ID` (R161). -/
def verifyIdentity (hc : HostConfig) (s : State) : Res :=
  match rdId s with
  | .ok b t => .next (if b = t.cfg.chipId then identityConfirmed hc t else t.setupFailed .identityMismatch)
  | .fail f t => .next (t.setupFailed f)
  | .fault r => .fault r
  | .refused r => .refused r

/-- Setup is complete (R162, `ApplyingProfile → Running`); the session's profile and window are those just written
(R33, R34; log 29). -/
def State.enterRunning (s : State) (hc : HostConfig) : State :=
  { s with session := { s.session with
      lifecycle := .running, applying := none, profile := some (mergeProfile hc.profile),
      window := some (mergeProfile hc.profile).threshold } }

/-- Progress inside ApplyingProfile. -/
def State.setApplying (s : State) (p : ApplyPhase) : State :=
  { s with session := { s.session with applying := some p } }

/-- One write of the session's profile (R139, R179 step 4); after the last, the start-up clear if configured (R178). -/
def applyWrites (hc : HostConfig) (job : WriteJob) (s : State) : Res :=
  match continueJob job s with
  | .ok none t => .next (if hc.startupClear then t.setApplying .clear else t.enterRunning hc)
  | .ok (some rest) t => .next (t.setApplying (.write rest))
  | .fail f t => .next (t.setupFailed f)
  | .fault r => .fault r
  | .refused r => .refused r

/-- The start-up clear (R178, R179 step 5); its failure is a failure during ApplyingProfile (R152; log 28). -/
def applyClear (hc : HostConfig) (s : State) : Res :=
  match clrInt s with
  | .ok _ t => .next (t.enterRunning hc)
  | .fail f t => .next (t.setupFailed f)
  | .fault r => .fault r
  | .refused r => .refused r

/-- A step of ApplyingProfile. -/
def applyTurn (hc : HostConfig) (s : State) : Res :=
  match s.session.applying with
  | some (.write job) => applyWrites hc job s
  | some .clear => applyClear hc s
  | none =>
      match encodeProfile s.cfg (mergeProfile hc.profile) with
      | .error e => .next (s.setupFailed (.domain e))
      | .ok job => applyWrites hc job s

/-- A turn of the setup sequence (R162, R179). -/
def setupTurn (s : State) : Res :=
  match s.session.config with
  | none => .next s
  | some hc =>
      match s.session.lifecycle with
      | .connecting => .next (connect s)
      | .verifyingIdentity => verifyIdentity hc s
      | .applyingProfile => applyTurn hc s
      | .unconfigured => .next s
      | .running => .next s
      | .stopped => .next s
      | .retryWaiting => .next s

/-- The retry timer fires (R163): the whole setup sequence starts again. -/
def retryFires (s : State) : State :=
  if s.session.lifecycle = .retryWaiting ∧ s.session.retryTimer.isSome then
    { s with session := { s.session with lifecycle := .connecting, retryTimer := none } }
  else s

/-- `setupWithRetry` (R160, R162, `Unconfigured → Connecting`); elsewhere it has no described effect (log 27). -/
def setupWithRetry (hc : HostConfig) (s : State) : State :=
  if s.session.lifecycle = .unconfigured then
    { s with session := { s.session with lifecycle := .connecting, config := some hc } }
  else s

/-- `start` (R160, R179 step 6): the poll timer is started, and the watcher attached when the line is held;
elsewhere than in `Running` it has no described effect (log 27). -/
def startSession (s : State) : State :=
  if s.session.lifecycle = .running then
    { s with session := { s.session with pollTimer := some Config.pollInterval, watcher := s.session.line } }
  else s

/-- The session is destroyed (R33, R164): its profile and window are gone, peripherals and bus released, timers
cancelled, the watcher detached. The configuration is the caller's, and an activity between two transactions keeps its
place, to fail on the released bus (log 26). -/
def State.destroySession (s : State) : State :=
  { s with session := { s.session with
      lifecycle := .stopped, profile := none, window := none, bus := false, led := none, line := false,
      pollTimer := none, retryTimer := none, watcher := false, edge := false } }

/-- `stop` (R33, R163, R164, R174): in `Running` and in `RetryWaiting` the session is destroyed and its run ends in
`Stopped`; elsewhere it has no described effect (log 26). -/
def stopSession (s : State) : State :=
  match s.session.lifecycle with
  | .running => s.destroySession
  | .retryWaiting => s.destroySession
  | .unconfigured => s
  | .connecting => s
  | .verifyingIdentity => s
  | .applyingProfile => s
  | .stopped => s

/-- A lifecycle entry point is called (R160). -/
def lifecycleCall (c : LifecycleCall) (s : State) : State :=
  match c with
  | .setupWithRetry hc => setupWithRetry hc s
  | .start => startSession s
  | .stop => stopSession s

end Sys2Proof.Machine
end

