-- ==== Sys2Proof/Machine/Turns.lean ====
section
/-! DEFINITION. The foreground's turn, which takes the oldest issued item, decodes it and runs it, and the choice of
the agent that moves. -/

namespace Sys2Proof.Machine

/-- Whether an operation is over after a step of it: a WR_PROFILE goes on while it has writes to issue (R134). -/
def retires (i : Instr) (after : State) : Bool :=
  match i with
  | .wrProfile _ => after.job.isNone
  | _ => true

/-- The item in hand leaves the queue when its operation is over. -/
def retireItem (i : Instr) (rest : List HostCommand) (r : Res) : Res :=
  match r with
  | .next s => .next (if retires i s then { s with queue := rest } else s)
  | .fault f => .fault f
  | .refused f => .refused f

/-- A bus primitive issued by hand (R40, R72). -/
def busTurn (b : BusRequest) (s : State) : Res :=
  match b with
  | .read cmd n => (busRead cmd n s).outcome Result.bytes
  | .write cmd bs => (busWrite cmd bs s).outcome fun _ => .acknowledged
  | .special cmd => (busSpecial cmd s).outcome fun _ => .acknowledged

/-- The error of a reserved selector (R58). -/
def illegalOp (op : BitVec 5) : OpError := { cls := .illegalOp, field := .op, value := .int op.toNat }

/-- The foreground takes the oldest issued item (R14, R49): an operation is run, a reserved selector raises
`IllegalOp` (R58), a bus primitive is done. With nothing issued the session waits (log 20). DESIGN CHOICE (log 41): what
the surrounding software issues reaches the chip in every lifecycle state, also after `stop` has released the session's
bus and also the rest of a WR_PROFILE half done, because its bus capability is supplied by the caller (R134, R168). -/
def foreground (s : State) : Res :=
  match s.queue with
  | [] => .next s
  | .bus b :: rest => busTurn b { s with queue := rest }
  | .issue item :: rest =>
      match decode item with
      | .error (.reservedSelector op) => .next ({ s with queue := rest }.raise (.domain (illegalOp op)))
      | .ok i => retireItem i rest (exec i s)

/-- The agent whose turn it is moves (R6). -/
def runTurn (t : Turn) (s : State) : Res :=
  match t with
  | .foreground => foreground s
  | .call c => .next (lifecycleCall c s)
  | .setup => setupTurn s
  | .retryFires => .next (retryFires s)
  | .pollFires => .next (pollFires s)
  | .poll => pollTurn s
  | .irq => irqTurn s
  | .chip act => .next (chipActs act s)

/-- The agent the schedule names moves; with none left, the foreground (R53; log 20). -/
def scheduled (s : State) : Res :=
  match s.schedule with
  | [] => foreground s
  | t :: rest => runTurn t { s with schedule := rest }

/-- Whatever moved, the watcher sees a rising edge of the line (R156). -/
def watchLine (before : State) (r : Res) : Res :=
  match r with
  | .next s => .next (observeEdge before s)
  | .fault f => .fault f
  | .refused f => .refused f

/-- The state in which the foreground moves next and the given item is its oldest. -/
def State.issueNext (s : State) (item : Issue) : State :=
  { s with schedule := .foreground :: s.schedule, queue := .issue item :: s.queue }

end Sys2Proof.Machine
end

