-- ==== Sys2Proof/Machine/Step.lean ====
section
/-! DEFINITION. One step of the machine, and the placing of a table word where the next step fetches it. -/

namespace Sys2Proof.Machine

/-- One step: one agent moves, and the watcher sees what became of the line. -/
def step (s : State) : Host.Outcome State Fault Refusal := watchLine s (scheduled s)

/-- The state whose next step fetches the request of the table word `w` (log 1). -/
def State.withFetchWord (s : State) (_nbits w : Nat) : State := s.issueNext (tableRequest w)

end Sys2Proof.Machine
end

