-- ==== Sys2Proof/Safety.lean ====
section
/-! DEFINITION. What a sound state of the machine is, in the terms the statements use: the invariant that every step
keeps, and the hang of the interrupt path. -/

namespace Sys2Proof

/-- The 21 operations of the block (R57), as opposed to the pseudo-operations. -/
def Instr.blockOperation : Instr → Bool
  | .rdProfile => false
  | .wrProfile _ => false
  | .clrInt => false
  | .wrThresh _ _ => false
  | .rdThresh => false
  | .rdId => false
  | .rdStatus => false
  | .rdData => false
  | _ => true

end Sys2Proof

namespace Sys2Proof.Machine

/-- A component write of WR_PROFILE (R139): to host-written registers other than ENABLE, one byte when it repeats. -/
def componentOk (c : Cfg) (w : RegWrite) : Bool :=
  (w.type == c.tAutoinc || (w.type == c.tRepeat && w.bytes.length == 1))
    && (List.range w.bytes.length).all fun i =>
        (hostWritten c).contains (w.address.toNat + i) && w.address.toNat + i != c.aEnable.toNat

/-- A job of WR_PROFILE (R139, R181): component writes, none of them to ENABLE, then one byte to ENABLE. -/
def jobOk (c : Cfg) (job : WriteJob) : Bool :=
  job.pending.all (componentOk c) && job.enable.address == c.aEnable && job.enable.type == c.tRepeat
    && job.enable.bytes.length == 1

/-- Both bounds are unsigned 16-bit (R34). -/
def windowOk (w : Window) : Bool := inWordRange w.low && inWordRange w.high

/-- What ApplyingProfile may hold (R162): a sound job, and a profile whose threshold its encoder took. -/
def applyingOk (c : Cfg) (n : Session) : Bool :=
  match n.applying with
  | none => true
  | some phase =>
      n.lifecycle == .applyingProfile && n.config.all (fun hc => windowOk (mergeProfile hc.profile).threshold)
        && (match phase with
            | .write job => jobOk c job
            | .clear => true)

/-- The lifecycle states that hold the bus (R162, R163, R164). -/
def Lifecycle.holdsBus : Lifecycle → Bool
  | .unconfigured => false
  | .connecting => false
  | .verifyingIdentity => true
  | .applyingProfile => true
  | .running => true
  | .stopped => false
  | .retryWaiting => false

/-- The lifecycle states in which a poll or handler may be at work: a running session, and a stopped one whose last
activity has yet to fail (R157, R158, R164). -/
def Lifecycle.started : Lifecycle → Bool
  | .unconfigured => false
  | .connecting => false
  | .verifyingIdentity => false
  | .applyingProfile => false
  | .running => true
  | .stopped => true
  | .retryWaiting => false

/-- The session's fields agree with its lifecycle state (R33, R160 to R164): handles are held exactly while acquired,
the retry timer is armed exactly in `RetryWaiting`, poll timer and watcher belong to `Running`, and exactly a running
session has a profile and a window. -/
def sessionOk (c : Cfg) (n : Session) : Bool :=
  n.bus == n.lifecycle.holdsBus
    && (n.config.isSome == (n.lifecycle != .unconfigured))
    && (!n.led.isSome || n.bus) && (!n.line || n.bus)
    && (!n.pollTimer.isSome || n.lifecycle == .running)
    && (n.retryTimer.isSome == (n.lifecycle == .retryWaiting))
    && (!n.watcher || (n.lifecycle == .running && n.line)) && (!n.edge || n.watcher)
    && (n.profile.isSome == (n.lifecycle == .running)) && (n.window.isSome == (n.lifecycle == .running))
    && (!n.poll.isSome || n.lifecycle.started) && (!n.irq.isSome || n.lifecycle.started)
    && n.window.all windowOk
    && applyingOk c n

/-- The invariant: the parameters are well-formed, the register file is in canonical form, the session is sound, so is
the foreground's job, and an edge is pending only while the condition is latched (R166). -/
def State.sound (s : State) : Bool :=
  cfgWellFormed s.cfg && memWf s.cfg.resetReg s.chip.reg && sessionOk s.cfg s.session && s.job.all (jobOk s.cfg)
    && (!s.session.edge || s.chip.latch)

/-- No poll in progress is serving a violation. -/
def pollServesNone (p : Option PollPhase) : Bool :=
  match p with
  | some (.service _) => false
  | _ => true

/-- The interrupt path is stuck (R185, U18): the condition is latched, its edge is gone, no handler is at work, and
software interrupts are disabled, so that no poll serves it either. -/
def State.hung (s : State) : Bool :=
  s.chip.latch && s.session.watcher && !s.session.edge && s.session.irq.isNone && pollServesNone s.session.poll
    && s.session.config.all (fun hc => !hc.softwareInterrupt)

/-- The foreground moves next: the schedule names it or is at its end (log 20). -/
def State.foregroundMoves (s : State) : Prop := s.schedule = [] ∨ s.schedule.head? = some .foreground

/-- The foreground moves next and is to do a repeated-byte read of `n` bytes that a caller has built (R45, R72). -/
def State.repeatsRead (s : State) (n : Nat) : Prop :=
  s.foregroundMoves ∧ ∃ cmd rest, s.queue = .bus (.read cmd n) :: rest ∧ cmdType cmd = s.cfg.tRepeat

/-- The oldest issued item is a bus primitive built by hand (R72). -/
def State.handBuilt (s : State) : Bool :=
  match s.queue with
  | .bus _ :: _ => true
  | _ => false

end Sys2Proof.Machine
end

