-- ==== Sys2Proof/Certificates/Slice0/Obligations.lean ====
section
/-! DEFINITION. What is claimed of the machine. Every `s` ranges over all states unless a premise says otherwise;
`s.sound` is the invariant that `StepKeepsSound` states. -/

open Sys2Proof Sys2Proof.Machine

/-! ### Requests and decoding -/

/-- Every well-formed operation has a request or call, and the decoder reads the operation back from it, with every
operand at every value its port admits (R55 to R57). -/
def Obligations.DecodeEncodeRoundTrip : Prop :=
  ∀ i : Instr, i.wellFormed = true → ∃ item, encode i = some item ∧ decode item = .ok i

/-- The first and last selectors of each family of the table, and the lone ones, name the operation of their row (R56);
the ends of the reserved range name none. That the operands of a table word stand at zero is the model's (log 1). -/
def Obligations.SelectorWordsDecode : Prop :=
  decodeTableWord 8 0b00000 = some (.encEnable false false false false)
    ∧ decodeTableWord 8 0b00001 = some (.decEnable 0)
    ∧ decodeTableWord 8 0b00010 = some (.encAtime (.finite 0)) ∧ decodeTableWord 8 0b01000 = some (.decConfig 0)
    ∧ decodeTableWord 8 0b01001 = some (.encThresh 0 0) ∧ decodeTableWord 8 0b01010 = some (.decThresh [])
    ∧ decodeTableWord 8 0b01011 = some (.encPers (.count 0)) ∧ decodeTableWord 8 0b01110 = some (.decGain 0)
    ∧ decodeTableWord 8 0b01111 = some (.decStatus 0) ∧ decodeTableWord 8 0b10000 = some (.decSample [])
    ∧ decodeTableWord 8 0b10001 = some (.deriveMeasurement 0 0 0 0)
    ∧ decodeTableWord 8 0b10010 = some (.mkcmd none 0 none)
    ∧ decodeTableWord 8 0b10011 = some (.tstepJump 0 0 0) ∧ decodeTableWord 8 0b10100 = some (.tstepWalk 0 0 0)
    ∧ decodeTableWord 8 0b10101 = none ∧ decodeTableWord 8 0b11111 = none

/-- R58: a request with a selector 21 to 31 raises `IllegalOp(op)` and produces no result. That the foreground takes it
from a queue, when the schedule names it or is at its end, is the model's (log 1, log 20). -/
def Obligations.ReservedSelectorRaisesIllegalOp : Prop :=
  ∀ (s : State) (op : BitVec 5) (ports : Ports) (rest : List HostCommand),
    s.schedule = [] ∨ s.schedule.head? = some .foreground →
    s.queue = .issue (.request op ports) :: rest → 21 ≤ op.toNat →
    step s = .next { s with
      schedule := s.schedule.tail
      queue := rest
      err := some (.domain { cls := .illegalOp, field := .op, value := .int op.toNat }) }

/-- When the foreground moves and its oldest item decodes to a well-formed operation, the step is `exec` of that
operation on the state whose schedule has moved on; then the item leaves the queue if the operation is over, and the
watcher compares the line before and after. The queue, the schedule and the step of one bus primitive are the model's
choices (log 1, log 20, log 21). -/
def Obligations.StepRunsDecodedOperation : Prop :=
  ∀ (s : State) (item : Issue) (rest : List HostCommand) (i : Instr),
    s.schedule = [] ∨ s.schedule.head? = some .foreground →
    s.queue = .issue item :: rest → decode item = .ok i → i.wellFormed = true →
    step s = match exec i { s with schedule := s.schedule.tail } with
      | .next t => .next (observeEdge s (if retires i t then { t with queue := rest } else t))
      | .fault f => .fault f
      | .refused f => .refused f

/-- R13: a block operation reads only its operands and the constant tables and writes only its result ports and the
error indication: what it returns is fixed by the operation and the parameters alone, whatever the state. -/
def Obligations.BlockOperationsArePure : Prop :=
  ∀ (i : Instr) (c : Cfg), i.blockOperation = true →
    ∃ x : Except OpError Result, ∀ s : State, s.cfg = c →
      exec i s = .next (match x with
        | .ok r => { s with out := some r, err := none }
        | .error e => { s with err := some (.domain e) })

/-! ### Codec: enable flags -/

/-- R74 and R75: ENC_ENABLE gives the OR of the masks of the flags that are set, nothing outside the four masks;
DEC_ENABLE tests each mask and ignores the bits outside them. -/
def Obligations.EnableOperations : Prop :=
  (∀ (s : State) (powerOn active wait interrupts : Bool),
    exec (.encEnable powerOn active wait interrupts) s = .next { s with
      err := none
      out := some (.byte ((if powerOn then s.cfg.mPon else 0) ||| (if active then s.cfg.mAen else 0)
        ||| (if wait then s.cfg.mWen else 0) ||| (if interrupts then s.cfg.mAien else 0))) })
  ∧ (∀ (c : Cfg) (f : EnableFlags), enableByte c f &&& ~~~(c.mPon ||| c.mAen ||| c.mWen ||| c.mAien) = 0)
  ∧ (∀ (s : State) (b : Byte),
    exec (.decEnable b) s = .next { s with
      err := none
      out := some (.enableFlags
        { powerOn := b &&& s.cfg.mPon != 0, active := b &&& s.cfg.mAen != 0, wait := b &&& s.cfg.mWen != 0,
          interrupts := b &&& s.cfg.mAien != 0 }) })
  ∧ (∀ (c : Cfg) (b : Byte),
    enableFlags c b = enableFlags c (b &&& (c.mPon ||| c.mAen ||| c.mWen ||| c.mAien)))

/-- R76: decoding after encoding gives every flag back; encoding after decoding keeps exactly the bits of the masks. -/
def Obligations.EnableRoundTrip : Prop :=
  ∀ c : Cfg, cfgWellFormed c = true →
    (∀ f : EnableFlags, enableFlags c (enableByte c f) = f)
    ∧ (∀ b : Byte, enableByte c (enableFlags c b) = b &&& (c.mPon ||| c.mAen ||| c.mWen ||| c.mAien))

/-! ### Codec: timing -/

/-- R78: ENC_ATIME gives the byte of `floor(ms / 2.4)` for 2.4 ≤ ms < 616.8, and a range error that names the field
and the value for every other finite operand. -/
def Obligations.EncAtimeQuantises : Prop :=
  ∀ (s : State) (q : Q),
    (12 / 5 ≤ q ∧ q < 3084 / 5 → ∃ b : Byte,
      exec (.encAtime (.finite q)) s = .next { s with out := some (.byte b), err := none }
      ∧ 256 - (b.toNat : Int) = ⌊q / (12 / 5)⌋)
    ∧ (q < 12 / 5 ∨ 3084 / 5 ≤ q →
      exec (.encAtime (.finite q)) s = .next { s with
        err := some (.domain { cls := .rangeError, field := .integrationTimeMs, value := .time (.finite q) }) })

/-- R79: DEC_ATIME gives the cycles, 1024 counts for each, and 2.4 ms for each; the limit is not capped. -/
def Obligations.DecAtimeResult : Prop :=
  ∀ (s : State) (b : Byte),
    exec (.decAtime b) s = .next { s with
      err := none
      out := some (.integrationTiming
        { cycles := 256 - b.toNat, maxCount := (256 - b.toNat) * 1024,
          timeMs := ((256 - b.toNat : Int) : Q) * (12 / 5) }) }
    ∧ 1 ≤ (decodeAtime b).cycles ∧ (decodeAtime b).cycles ≤ 256
    ∧ 12 / 5 ≤ (decodeAtime b).timeMs ∧ (decodeAtime b).timeMs ≤ 3072 / 5

/-- R80: decoding then encoding gives the byte back; a legal time is rounded down by less than 2.4 ms, to 614.4 from
614.4 on; a longer time has no larger byte. -/
def Obligations.IntegrationTimeLaws : Prop :=
  (∀ b : Byte, encodeAtime (.finite (decodeAtime b).timeMs) = .ok b)
  ∧ (∀ q : Q, 12 / 5 ≤ q → q < 3084 / 5 → ∃ b : Byte, encodeAtime (.finite q) = .ok b
      ∧ (decodeAtime b).timeMs ≤ q ∧ q < (decodeAtime b).timeMs + 12 / 5
      ∧ (3072 / 5 ≤ q → (decodeAtime b).timeMs = 3072 / 5))
  ∧ (∀ (q r : Q) (b d : Byte), q ≤ r → encodeAtime (.finite q) = .ok b → encodeAtime (.finite r) = .ok d →
      d.toNat ≤ b.toNat)

/-- R82: ENC_WTIME takes the long regime exactly above 614.4 ms and gives the byte of `trunc(ms / step)`; outside
2.4 ≤ ms < 7401.6 it raises a range error that names the field and the value. -/
def Obligations.EncWtimeChoosesRegime : Prop :=
  ∀ (s : State) (q : Q),
    (12 / 5 ≤ q ∧ q ≤ 3072 / 5 → ∃ b : Byte,
      exec (.encWtime (.finite q)) s = .next { s with out := some (.byteAndLongFlag b false), err := none }
      ∧ 256 - (b.toNat : Int) = ⌊q / (12 / 5)⌋)
    ∧ (3072 / 5 < q ∧ q < 37008 / 5 → ∃ b : Byte,
      exec (.encWtime (.finite q)) s = .next { s with out := some (.byteAndLongFlag b true), err := none }
      ∧ 256 - (b.toNat : Int) = ⌊q / (144 / 5)⌋)
    ∧ (q < 12 / 5 ∨ 37008 / 5 ≤ q →
      exec (.encWtime (.finite q)) s = .next { s with
        err := some (.domain { cls := .rangeError, field := .waitTimeMs, value := .time (.finite q) }) })

/-- R89: a time that is not a finite number is refused by both time encoders with a range error. -/
def Obligations.NonFiniteTimesRejected : Prop :=
  ∀ (s : State) (t : TimeOperand), t = .nan ∨ t = .posInf ∨ t = .negInf →
    exec (.encAtime t) s = .next { s with
      err := some (.domain { cls := .rangeError, field := .integrationTimeMs, value := .time t }) }
    ∧ exec (.encWtime t) s = .next { s with
      err := some (.domain { cls := .rangeError, field := .waitTimeMs, value := .time t }) }

/-- R83 to R86: DEC_WTIME gives the byte and its count, FMT_WTIME the product, ENC_CONFIG the mask or 0, and
DEC_CONFIG the test of the mask. -/
def Obligations.WaitTimeOperations : Prop :=
  (∀ (s : State) (b : Byte), exec (.decWtime b) s = .next { s with
      err := none, out := some (.waitTiming { wtime := b, count := 256 - b.toNat }) })
  ∧ (∀ (s : State) (n : Int), exec (.fmtWtime n false) s = .next { s with
      err := none, out := some (.timeMs ((n : Q) * (12 / 5))) })
  ∧ (∀ (s : State) (n : Int), exec (.fmtWtime n true) s = .next { s with
      err := none, out := some (.timeMs ((n : Q) * (144 / 5))) })
  ∧ (∀ (s : State) (f : Bool), exec (.encConfig f) s = .next { s with
      err := none, out := some (.byte (if f then s.cfg.mWlong else 0)) })
  ∧ (∀ (s : State) (b : Byte), exec (.decConfig b) s = .next { s with
      err := none, out := some (.wlong (b &&& s.cfg.mWlong != 0)) })

/-- R87: a legal wait time survives encoding, with the flag through CONFIG, up to less than one step of its regime,
and is 7372.8 from 7372.8 on; a byte is given back in the short regime, and in the long one exactly from 22 steps on. -/
def Obligations.WaitTimeLaws : Prop :=
  ∀ c : Cfg, cfgWellFormed c = true →
    (∀ (q : Q) (b : Byte) (l : Bool), encodeWtime (.finite q) = .ok (b, l) →
      let t := formatWtime (decodeWtime b).count (decodeConfig c (encodeConfig c l))
      t ≤ q ∧ (l = false → q - t < 12 / 5) ∧ (l = true → q - t < 144 / 5) ∧ (36864 / 5 ≤ q → t = 36864 / 5))
    ∧ (∀ b : Byte, encodeWtime (.finite (formatWtime (decodeWtime b).count false)) = .ok (b, false))
    ∧ (∀ b : Byte, encodeWtime (.finite (formatWtime (decodeWtime b).count true)) = .ok (b, true)
        ↔ 22 ≤ 256 - (b.toNat : Int))

/-! ### Codec: threshold -/

/-- R92: ENC_THRESH gives the four bytes low first when both bounds are unsigned 16-bit, in whatever order they stand,
and otherwise a range error that names the first bound out of range. -/
def Obligations.EncThreshBytes : Prop :=
  ∀ (s : State) (low high : Int),
    (0 ≤ low ∧ low ≤ 0xFFFF ∧ 0 ≤ high ∧ high ≤ 0xFFFF →
      exec (.encThresh low high) s = .next { s with
        err := none
        out := some (.bytes [BitVec.ofInt 8 (low % 256), BitVec.ofInt 8 (low / 256 % 256),
          BitVec.ofInt 8 (high % 256), BitVec.ofInt 8 (high / 256 % 256)]) })
    ∧ (low < 0 ∨ 0xFFFF < low →
      exec (.encThresh low high) s = .next { s with
        err := some (.domain { cls := .rangeError, field := .thresholdLow, value := .int low }) })
    ∧ ((0 ≤ low ∧ low ≤ 0xFFFF) ∧ (high < 0 ∨ 0xFFFF < high) →
      exec (.encThresh low high) s = .next { s with
        err := some (.domain { cls := .rangeError, field := .thresholdHigh, value := .int high }) })

/-- R93: DEC_THRESH gives two little-endian words from the first four bytes, ignores the rest, and raises a length
error when there are fewer. -/
def Obligations.DecThreshWords : Prop :=
  (∀ (s : State) (b0 b1 b2 b3 : Byte) (rest : List Byte), ∃ b : Band,
    exec (.decThresh (b0 :: b1 :: b2 :: b3 :: rest)) s = .next { s with out := some (.band b), err := none }
    ∧ b.low.toNat = b1.toNat * 256 + b0.toNat ∧ b.high.toNat = b3.toNat * 256 + b2.toNat)
  ∧ (∀ (s : State) (bs : List Byte), bs.length < 4 →
    exec (.decThresh bs) s = .next { s with
      err := some (.domain { cls := .lengthError, field := .threshold, value := .int bs.length }) })

/-- R94: the threshold round trip loses nothing either way, and each bound decides its own two bytes. -/
def Obligations.ThresholdRoundTrip : Prop :=
  (∀ low high : Int, 0 ≤ low → low ≤ 0xFFFF → 0 ≤ high → high ≤ 0xFFFF → ∃ bs b,
    encodeThreshold low high = .ok bs ∧ decodeThreshold bs = .ok b
      ∧ (b.low.toNat : Int) = low ∧ (b.high.toNat : Int) = high)
  ∧ (∀ bs : List Byte, bs.length = 4 → ∃ b, decodeThreshold bs = .ok b
      ∧ encodeThreshold b.low.toNat b.high.toNat = .ok bs)
  ∧ (∀ (l h l' h' : Int) (bs bs' : List Byte), encodeThreshold l h = .ok bs → encodeThreshold l' h' = .ok bs' →
      (bs.take 2 = bs'.take 2 ↔ l = l') ∧ (bs.drop 2 = bs'.drop 2 ↔ h = h'))

/-! ### Codec: persistence and gain -/

/-- R97: ENC_PERS gives the code of `every` for its three spellings, the code of each listed count, and a range error
that names the field and the value for everything else. -/
def Obligations.EncPersTable : Prop :=
  ∀ (s : State), cfgWellFormed s.cfg = true →
    (∀ f : FilterOperand, f = .every ∨ f = .literal true ∨ f = .count 0 →
      exec (.encPers f) s = .next { s with
        err := none, out := some (.byte (placeField s.cfg.mApers ((s.cfg.persCode.getD 0 0).setWidth 8))) })
    ∧ (∀ (i n : Nat), [1, 2, 3, 5, 10, 15, 20, 25, 30, 35, 40, 45, 50, 55, 60][i]? = some n →
      exec (.encPers (.count (n : Q))) s = .next { s with
        err := none, out := some (.byte (placeField s.cfg.mApers ((s.cfg.persCode.getD (i + 1) 0).setWidth 8))) })
    ∧ (∀ f : FilterOperand,
      f = .literal false ∨ (∃ q : Q, f = .count q ∧
        ∀ n ∈ [0, 1, 2, 3, 5, 10, 15, 20, 25, 30, 35, 40, 45, 50, 55, 60], q ≠ Nat.cast n) →
      exec (.encPers f) s = .next { s with
        err := some (.domain { cls := .rangeError, field := .filtering, value := .filter f }) })

/-- R98: DEC_PERS is total: every byte gives the one key whose code stands in the field. -/
def Obligations.DecPersTotal : Prop :=
  ∀ (s : State) (b : Byte), cfgWellFormed s.cfg = true → ∃ (i : Nat) (f : Filter),
    exec (.decPers b) s = .next { s with out := some (.filter f), err := none }
    ∧ ([Filter.every, .count 1, .count 2, .count 3, .count 5, .count 10, .count 15, .count 20, .count 25, .count 30,
        .count 35, .count 40, .count 45, .count 50, .count 55, .count 60])[i]? = some f
    ∧ s.cfg.persCode[i]? = some ((extractField s.cfg.mApers b).setWidth 4)

/-- R99: each listed persistence value comes back from its own byte, the three spellings of `every` as `every`, and
encoding a decoded byte keeps the bits of the field. -/
def Obligations.PersistenceLaws : Prop :=
  ∀ c : Cfg, cfgWellFormed c = true →
    (∀ n ∈ [1, 2, 3, 5, 10, 15, 20, 25, 30, 35, 40, 45, 50, 55, 60],
      ∃ b, encodePers c (.count (Nat.cast n)) = .ok b ∧ decodePers c b = .count n)
    ∧ (∀ f : FilterOperand, f = .every ∨ f = .literal true ∨ f = .count 0 →
      ∃ b, encodePers c f = .ok b ∧ decodePers c b = .every)
    ∧ (∀ b : Byte, encodePers c (match decodePers c b with
        | .every => .every
        | .count n => .count (Nat.cast n)) = .ok (b &&& c.mApers))

/-- R101 to R103: ENC_GAIN gives the code of 1, 4, 16 or 60 and a range error for every other multiplier; DEC_GAIN gives
the multiplier of the code in the field; the two round-trip, a byte up to the bits of the field. -/
def Obligations.GainOperations : Prop :=
  (∀ (s : State) (m : Int) (code : Byte), (m, code) ∈ [((1 : Int), (0 : Byte)), (4, 1), (16, 2), (60, 3)] →
    exec (.encGain m) s = .next { s with err := none, out := some (.byte (placeField s.cfg.mAgain code)) })
  ∧ (∀ (s : State) (m : Int), m ∉ ([1, 4, 16, 60] : List Int) →
    exec (.encGain m) s = .next { s with
      err := some (.domain { cls := .rangeError, field := .gain, value := .int m }) })
  ∧ (∀ (s : State) (b : Byte), cfgWellFormed s.cfg = true → ∃ m : Int,
    exec (.decGain b) s = .next { s with out := some (.multiplier m), err := none }
    ∧ (m, extractField s.cfg.mAgain b) ∈ [((1 : Int), (0 : Byte)), (4, 1), (16, 2), (60, 3)])
  ∧ (∀ c : Cfg, cfgWellFormed c = true →
    (∀ m ∈ ([1, 4, 16, 60] : List Int), ∃ b, encodeGain c m = .ok b ∧ decodeGain c b = m)
    ∧ (∀ b : Byte, encodeGain c (decodeGain c b) = .ok (b &&& c.mAgain)))

/-! ### Codec: status, sample, measurement -/

/-- R104: DEC_STATUS makes two independent bit tests and ignores the other bits. -/
def Obligations.DecStatusTests : Prop :=
  ∀ (s : State) (b : Byte),
    exec (.decStatus b) s = .next { s with
      err := none
      out := some (.statusFlags
        { dataValid := b &&& s.cfg.mAvalid != 0, thresholdViolation := b &&& s.cfg.mAint != 0 }) }
    ∧ statusFlags s.cfg b = statusFlags s.cfg (b &&& (s.cfg.mAvalid ||| s.cfg.mAint))

/-- R106: DEC_SAMPLE gives four little-endian words from the first eight bytes, ignores the rest, and raises a length
error when there are fewer. -/
def Obligations.DecSampleFields : Prop :=
  (∀ (s : State) (b0 b1 b2 b3 b4 b5 b6 b7 : Byte) (rest : List Byte), ∃ x : Sample,
    exec (.decSample (b0 :: b1 :: b2 :: b3 :: b4 :: b5 :: b6 :: b7 :: rest)) s
      = .next { s with out := some (.sample x), err := none }
    ∧ x.clear.toNat = b1.toNat * 256 + b0.toNat ∧ x.red.toNat = b3.toNat * 256 + b2.toNat
    ∧ x.green.toNat = b5.toNat * 256 + b4.toNat ∧ x.blue.toNat = b7.toNat * 256 + b6.toNat)
  ∧ (∀ (s : State) (bs : List Byte), bs.length < 8 →
    exec (.decSample bs) s = .next { s with
      err := some (.domain { cls := .lengthError, field := .sample, value := .int bs.length }) })

/-- R107: DEC_SAMPLE is a bijection between 8-byte sequences and samples. -/
def Obligations.SampleBijection : Prop :=
  ∀ x : Sample, ∃ bs : List Byte, bs.length = 8 ∧ decodeSample bs = .ok x
    ∧ ∀ bs' : List Byte, bs'.length = 8 → decodeSample bs' = .ok x → bs' = bs

/-- R115: DERIVE never fails: raw and ratios always, all-zero RGB with its flag and two not-a-numbers when clear is 0,
and otherwise the integer quotients `(channel * 255) div clear` and the two configuration functions. -/
def Obligations.DeriveResult : Prop :=
  ∀ (s : State) (clear red green blue : Word), ∃ m : Measurement,
    exec (.deriveMeasurement clear red green blue) s = .next { s with out := some (.measurement m), err := none }
    ∧ m.raw = { clear := clear, red := red, green := green, blue := blue }
    ∧ m.ratio = { r := (red.toNat : Q) / 65535, g := (green.toNat : Q) / 65535, b := (blue.toNat : Q) / 65535,
                  c := (clear.toNat : Q) / 65535 }
    ∧ (clear.toNat = 0 → m.rgb = { r := 0, g := 0, b := 0, zero := true } ∧ m.lux = .nan
        ∧ m.colorTemperatureK = .nan)
    ∧ (0 < clear.toNat →
        m.rgb = { r := ((red.toNat * 255 / clear.toNat : Nat) : Int), g := ((green.toNat * 255 / clear.toNat : Nat) : Int),
                  b := ((blue.toNat * 255 / clear.toNat : Nat) : Int), zero := false }
        ∧ m.lux = Config.lux clear red green blue ∧ m.colorTemperatureK = Config.cct clear red green blue)

/-- R116 (b), (c): the zero flag is set exactly for a clear count of 0; a channel not above a non-zero clear gives
0 to 255, and 255 exactly when it equals clear. -/
def Obligations.DerivedRgbRange : Prop :=
  ∀ x : Sample,
    ((derive x).rgb.zero = true ↔ x.clear.toNat = 0)
    ∧ (0 < x.clear.toNat → x.red.toNat ≤ x.clear.toNat →
        0 ≤ (derive x).rgb.r ∧ (derive x).rgb.r ≤ 255 ∧ ((derive x).rgb.r = 255 ↔ x.red = x.clear))
    ∧ (0 < x.clear.toNat → x.green.toNat ≤ x.clear.toNat →
        0 ≤ (derive x).rgb.g ∧ (derive x).rgb.g ≤ 255 ∧ ((derive x).rgb.g = 255 ↔ x.green = x.clear))
    ∧ (0 < x.clear.toNat → x.blue.toNat ≤ x.clear.toNat →
        0 ≤ (derive x).rgb.b ∧ (derive x).rgb.b ≤ 255 ∧ ((derive x).rgb.b = 255 ↔ x.blue = x.clear))

/-! ### Command byte -/

/-- R118: MKCMD checks the operands in order (address absent, address out of 0 .. 0x1F, type not described) and otherwise
gives the sum of the three disjoint fields, with the indicator set when the operand is omitted. -/
def Obligations.MkcmdResult : Prop :=
  ∀ (s : State) (type : BitVec 2) (isCommand : Option Bool),
    exec (.mkcmd none type isCommand) s = .next { s with
      err := some (.domain { cls := .missingOperand, field := .addressOrFunction, value := .absent }) }
    ∧ (∀ a : Int, a < 0 ∨ 0x1F < a →
      exec (.mkcmd (some a) type isCommand) s = .next { s with
        err := some (.domain { cls := .rangeError, field := .addressOrFunction, value := .int a }) })
    ∧ (∀ a : Int, 0 ≤ a → a ≤ 0x1F → type ≠ s.cfg.tRepeat → type ≠ s.cfg.tAutoinc → type ≠ s.cfg.tSpecial →
      exec (.mkcmd (some a) type isCommand) s = .next { s with
        err := some (.domain { cls := .rangeError, field := .type, value := .int type.toNat }) })
    ∧ (∀ a : Int, 0 ≤ a → a ≤ 0x1F →
      type = s.cfg.tRepeat ∨ type = s.cfg.tAutoinc ∨ type = s.cfg.tSpecial → ∃ cmd : Byte,
      exec (.mkcmd (some a) type isCommand) s = .next { s with out := some (.command cmd), err := none }
      ∧ (cmd.toNat : Int) = a + 32 * type.toNat + (if isCommand = some false then 0 else 128))

/-- R121: each field of a successful command byte can be read back, so MKCMD is injective on its legal operands. -/
def Obligations.MkcmdFieldsReadBack : Prop :=
  ∀ (c : Cfg) (a : Int) (t : BitVec 2) (i : Bool) (cmd : Byte), makeCommand c (some a) t (some i) = .ok cmd →
    ((cmd.extractLsb' 0 5).toNat : Int) = a ∧ cmd.extractLsb' 5 2 = t ∧ cmd.getLsbD 7 = i
    ∧ (∀ (a' : Int) (t' : BitVec 2) (i' : Bool), makeCommand c (some a') t' (some i') = .ok cmd →
        a' = a ∧ t' = t ∧ i' = i)

/-! ### Threshold controller -/

/-- R127: JUMP keeps the window on a sample on or between the bounds; outside it recentres on the sample by half the
range, truncated toward zero, then clamps each bound by itself; the upper test wins. -/
def Obligations.JumpRecentres : Prop :=
  ∀ (s : State) (low high clear : Word),
    let half := ((high.toNat : Int) - low.toNat).tdiv 2
    (low.toNat ≤ clear.toNat ∧ clear.toNat ≤ high.toNat →
      exec (.tstepJump low high clear) s = .next { s with
        err := none
        out := some (.controllerStep
          { newLow := low.toNat, newHigh := high.toNat, direction := .inside, sampleClear := clear }) })
    ∧ (high.toNat < clear.toNat ∨ clear.toNat < low.toNat →
      exec (.tstepJump low high clear) s = .next { s with
        err := none
        out := some (.controllerStep
          { newLow := max ((clear.toNat : Int) - half) 0
            newHigh := min ((clear.toNat : Int) + half) 0xFFFF
            direction := if high.toNat < clear.toNat then .above else .below
            sampleClear := clear }) })

/-- R128: WALK keeps the window on a sample on or between the bounds; outside it shifts both bounds by half the range,
truncated toward zero, to the sample's side, then clamps each bound by itself; the upper test wins. -/
def Obligations.WalkShifts : Prop :=
  ∀ (s : State) (low high clear : Word),
    let half := ((high.toNat : Int) - low.toNat).tdiv 2
    let shift := if high.toNat < clear.toNat then half else -half
    (low.toNat ≤ clear.toNat ∧ clear.toNat ≤ high.toNat →
      exec (.tstepWalk low high clear) s = .next { s with
        err := none
        out := some (.controllerStep
          { newLow := low.toNat, newHigh := high.toNat, direction := .inside, sampleClear := clear }) })
    ∧ (high.toNat < clear.toNat ∨ clear.toNat < low.toNat →
      exec (.tstepWalk low high clear) s = .next { s with
        err := none
        out := some (.controllerStep
          { newLow := max ((low.toNat : Int) + shift) 0
            newHigh := min ((high.toNat : Int) + shift) 0xFFFF
            direction := if high.toNat < clear.toNat then .above else .below
            sampleClear := clear }) })

/-- R130: for a conventional window the result is conventional and 16-bit, JUMP contains the sample, no width grows
and without a clamp WALK keeps it and JUMP makes it twice the half range, a window of width at most 1 does not move
under WALK and collapses on the sample under JUMP, and the direction is 0 exactly inside. -/
def Obligations.ConventionalWindowLaws : Prop :=
  ∀ (b : Band) (clear : Word), b.low.toNat ≤ b.high.toNat →
    (∀ st : Strategy, 0 ≤ (tstep st b clear).newLow ∧ (tstep st b clear).newLow ≤ (tstep st b clear).newHigh
        ∧ (tstep st b clear).newHigh ≤ 0xFFFF
        ∧ (tstep st b clear).newHigh - (tstep st b clear).newLow ≤ (b.high.toNat : Int) - b.low.toNat
        ∧ ((tstep st b clear).direction = .inside ↔ b.low.toNat ≤ clear.toNat ∧ clear.toNat ≤ b.high.toNat))
    ∧ ((tstepJump b clear).newLow ≤ clear.toNat ∧ (clear.toNat : Int) ≤ (tstepJump b clear).newHigh)
    ∧ (direction { low := BitVec.ofInt 16 (tstepJump b clear).newLow,
                   high := BitVec.ofInt 16 (tstepJump b clear).newHigh } clear = .inside)
    ∧ (direction b clear ≠ .inside → 0 ≤ (clear.toNat : Int) - halfRange b → (clear.toNat : Int) + halfRange b ≤ 0xFFFF →
        (tstepJump b clear).newHigh - (tstepJump b clear).newLow = 2 * halfRange b)
    ∧ (0 ≤ (b.low.toNat : Int) - halfRange b → (b.high.toNat : Int) + halfRange b ≤ 0xFFFF →
        (tstepWalk b clear).newHigh - (tstepWalk b clear).newLow = (b.high.toNat : Int) - b.low.toNat)
    ∧ (b.high.toNat ≤ b.low.toNat + 1 →
        ((tstepWalk b clear).newLow = b.low.toNat ∧ (tstepWalk b clear).newHigh = b.high.toNat)
        ∧ (direction b clear ≠ .inside →
            (tstepJump b clear).newLow = clear.toNat ∧ (tstepJump b clear).newHigh = clear.toNat))

/-- R131: for all operands the results lie in 0 .. 98302 and -32767 .. 65535, so the signed 18-bit ports carry them
unchanged. -/
def Obligations.ControllerWidths : Prop :=
  ∀ (st : Strategy) (b : Band) (clear : Word),
    0 ≤ (tstep st b clear).newLow ∧ (tstep st b clear).newLow ≤ 98302
    ∧ -32767 ≤ (tstep st b clear).newHigh ∧ (tstep st b clear).newHigh ≤ 65535
    ∧ (boundPort (tstep st b clear).newLow).toInt = (tstep st b clear).newLow
    ∧ (boundPort (tstep st b clear).newHigh).toInt = (tstep st b clear).newHigh

/-! ### Profile Service -/

/-- R48, R147: the five reading pseudo-operations change no register byte, latch, count, session, queue or job, only
their results and the environment's counters, whatever the transport answers; a failed transaction is passed on to the
caller as it is, and produces no result. -/
def Obligations.ReadOperationsFrame : Prop :=
  ∀ (s t : State) (i : Instr), i ∈ [Instr.rdProfile, .rdThresh, .rdId, .rdStatus, .rdData] → exec i s = .next t →
    (∀ a, t.regByte a = s.regByte a) ∧ t.chip = s.chip ∧ t.session = s.session ∧ t.cfg = s.cfg
    ∧ t.queue = s.queue ∧ t.job = s.job ∧ t.events = s.events ∧ t.log = s.log ∧ t.schedule = s.schedule
    ∧ t.picks = s.picks ∧ t.interludes = s.interludes
    ∧ (∀ landed, cfgWellFormed s.cfg = true → s.answer = .fail landed →
        t = { s.answered with err := some .transport })

/-- R135 and R136: an acknowledged RD_PROFILE returns the decoding of the bytes the registers hold, with the wait time
formatted from WTIME and CONFIG of the same block. -/
def Obligations.RdProfileDecodesRegisters : Prop :=
  ∀ s : State, cfgWellFormed s.cfg = true → s.answer = .ok → ∃ r : ProfileReading,
    exec .rdProfile s = .next { s.answered with out := some (.profileReading r), err := none }
    ∧ r.enable = enableFlags s.cfg (s.regByte s.cfg.aEnable.toNat)
    ∧ r.integration = decodeAtime (s.regByte s.cfg.aAtime.toNat)
    ∧ r.wait = decodeWtime (s.regByte s.cfg.aWtime.toNat)
    ∧ r.wlong = decodeConfig s.cfg (s.regByte s.cfg.aConfig.toNat)
    ∧ r.waitTimeMs = formatWtime r.wait.count r.wlong
    ∧ r.threshold = s.bandNow
    ∧ r.filtering = decodePers s.cfg (s.regByte s.cfg.aPers.toNat)
    ∧ r.gain = decodeGain s.cfg (s.regByte s.cfg.aControl.toNat)
    ∧ r.status = statusFlags s.cfg s.statusByte

/-- R142: an acknowledged RD_THRESH returns the window the threshold registers hold; a read cut short raises a length
error that records how many bytes came. -/
def Obligations.RdThreshReturnsWindow : Prop :=
  ∀ s : State, cfgWellFormed s.cfg = true →
    (s.answer = .ok → exec .rdThresh s = .next { s.answered with out := some (.band s.bandNow), err := none })
    ∧ (∀ n, n < 4 → s.answer = .short n →
      exec .rdThresh s = .next { s.answered with
        err := some (.domain { cls := .lengthError, field := .threshold, value := .int n }) })

/-- R143 and R144: acknowledged, RD_ID returns the identity byte and RD_STATUS the two tests of STATUS; while ENABLE
`interrupts` is set, the violation flag is the latch (R155). -/
def Obligations.RdIdAndRdStatus : Prop :=
  ∀ s : State, cfgWellFormed s.cfg = true → s.answer = .ok →
    exec .rdId s = .next { s.answered with out := some (.byte (s.regByte s.cfg.aId.toNat)), err := none }
    ∧ ∃ f : StatusFlags, exec .rdStatus s = .next { s.answered with out := some (.statusFlags f), err := none }
      ∧ f.dataValid = (s.regByte s.cfg.aStatus.toNat &&& s.cfg.mAvalid != 0)
      ∧ (s.enableNow.interrupts = true → f.thresholdViolation = s.chip.latch)

/-- R145: an acknowledged RD_DATA returns the sample of the eight data registers, little-endian, and its measurement. -/
def Obligations.RdDataReturnsSample : Prop :=
  ∀ s : State, cfgWellFormed s.cfg = true → s.answer = .ok → ∃ x : Sample,
    exec .rdData s = .next { s.answered with out := some (.data x (derive x)), err := none }
    ∧ x.clear = le16 (s.regByte s.cfg.aCdatal.toNat) (s.regByte (s.cfg.aCdatal.toNat + 1))
    ∧ x.red = le16 (s.regByte (s.cfg.aCdatal.toNat + 2)) (s.regByte (s.cfg.aCdatal.toNat + 3))
    ∧ x.green = le16 (s.regByte (s.cfg.aCdatal.toNat + 4)) (s.regByte (s.cfg.aCdatal.toNat + 5))
    ∧ x.blue = le16 (s.regByte (s.cfg.aCdatal.toNat + 6)) (s.regByte (s.cfg.aCdatal.toNat + 7))

/-- R141: an acknowledged WR_THRESH of a 16-bit window stores it in the four threshold registers and nowhere else; a
bound out of range raises and nothing is written. -/
def Obligations.WrThreshStoresWindow : Prop :=
  ∀ (s : State) (low high : Int), cfgWellFormed s.cfg = true → s.answer = .ok →
    (0 ≤ low ∧ low ≤ 0xFFFF ∧ 0 ≤ high ∧ high ≤ 0xFFFF → ∃ t : State,
      exec (.wrThresh low high) s = .next t
      ∧ (t.bandNow.low.toNat : Int) = low ∧ (t.bandNow.high.toNat : Int) = high
      ∧ (∀ a, a < s.cfg.aAiltl.toNat ∨ s.cfg.aAiltl.toNat + 4 ≤ a → t.regByte a = s.regByte a)
      ∧ t = { s.answered with out := some .acknowledged, err := none, chip := { s.chip with reg := t.chip.reg } })
    ∧ (low < 0 ∨ 0xFFFF < low ∨ high < 0 ∨ 0xFFFF < high → ∃ e : OpError,
      exec (.wrThresh low high) s = .next { s with err := some (.domain e) } ∧ e.cls = .rangeError)

/-- R140 and R155: an acknowledged CLR_INT clears the latch and changes no register byte; whether the persistence count
restarts is the open constant of log 16. -/
def Obligations.ClrIntClearsLatch : Prop :=
  ∀ s : State, s.answer = .ok → ∃ t : State,
    exec .clrInt s = .next t ∧ t.chip.latch = false ∧ t.chip.reg = s.chip.reg ∧ (∀ a, t.regByte a = s.regByte a)
    ∧ (t.chip.run = s.chip.run ∨ t.chip.run = 0)
    ∧ t = { s.answered with out := some .acknowledged, err := none, chip := t.chip }

/-- R138: a partial profile that leaves out either time is refused with that time's range error, and nothing else
changes; the integration time is reported first. -/
def Obligations.WrProfileRejectsOmittedTimes : Prop :=
  ∀ (s : State) (p : PartialProfile), s.job = none →
    (p.integrationTimeMs = none →
      exec (.wrProfile p) s = .next { s with
        err := some (.domain { cls := .rangeError, field := .integrationTimeMs, value := .time (.finite 0) }) })
    ∧ (∀ q : Q, 12 / 5 ≤ q → q < 3084 / 5 → p.integrationTimeMs = some (.finite q) → p.waitTimeMs = none →
      exec (.wrProfile p) s = .next { s with
        err := some (.domain { cls := .rangeError, field := .waitTimeMs, value := .time (.finite 0) }) })

/-- R139: with its encoders passed and its writes acknowledged, a step of WR_PROFILE issues one write: any one of the
component writes left, at the address and of the bytes the job holds, and ENABLE's when none is left, which ends it.
That the environment's pick chooses the write is the model's form of `in any order` (log 22). -/
def Obligations.WrProfileIssuesOneWrite : Prop :=
  ∀ (s : State) (p : PartialProfile) (job : WriteJob), cfgWellFormed s.cfg = true → s.answer = .ok →
    (s.job = none ∧ encodeProfile s.cfg (mergeProfile p) = .ok job ∨ s.job = some job ∧ jobOk s.cfg job = true) →
    (∀ w : RegWrite, job.pending[s.pick % job.pending.length]? = some w → ∃ t : State,
      exec (.wrProfile p) s = .next t
      ∧ t = { s.picked.answered with
          job := some { job with pending := job.pending.eraseIdx (s.pick % job.pending.length) }
          chip := { s.chip with reg := t.chip.reg } }
      ∧ (∀ i < w.bytes.length, t.regByte (w.address.toNat + i) = w.bytes.getD i 0)
      ∧ (∀ a, a < w.address.toNat ∨ w.address.toNat + w.bytes.length ≤ a → t.regByte a = s.regByte a))
    ∧ (job.pending = [] → ∃ t : State,
      exec (.wrProfile p) s = .next t
      ∧ t = { s.answered with
          job := none, out := some .acknowledged, err := none, chip := { s.chip with reg := t.chip.reg } }
      ∧ (∀ a, t.regByte a = if a = s.cfg.aEnable.toNat then job.enable.bytes.getD 0 0 else s.regByte a))

/-- R137 to R139, R51: seven steps of the machine run an issued WR_PROFILE to its end, in whichever order the component
writes fall: every configuration register then holds the byte of its encoder, the threshold registers the window, and
no other register has changed. One write a step and the picked order are the model's (log 21, log 22). -/
def Obligations.WrProfileRunStoresProfile : Prop :=
  ∀ (s : State) (p : PartialProfile) (a w g sp : Byte) (l : Bool) (t : List Byte),
    cfgWellFormed s.cfg = true → s.schedule = [] → s.answers = [] → s.job = none →
    s.queue = [.issue (.service (.wrProfile p))] →
    encodeAtime (mergeProfile p).integrationTimeMs = .ok a →
    encodeWtime (mergeProfile p).waitTimeMs = .ok (w, l) →
    encodeThreshold (mergeProfile p).threshold.low (mergeProfile p).threshold.high = .ok t →
    encodePers s.cfg (mergeProfile p).filtering = .ok sp →
    encodeGain s.cfg (mergeProfile p).gain = .ok g →
    ∃ r : State, core.run 7 s = .next r ∧ r.queue = [] ∧ r.job = none ∧ r.out = some .acknowledged ∧ r.err = none
      ∧ r.regByte s.cfg.aAtime.toNat = a ∧ r.regByte s.cfg.aWtime.toNat = w
      ∧ decodeThreshold t = .ok r.bandNow
      ∧ r.regByte s.cfg.aPers.toNat = sp ∧ r.regByte s.cfg.aConfig.toNat = encodeConfig s.cfg l
      ∧ r.regByte s.cfg.aControl.toNat = g
      ∧ r.regByte s.cfg.aEnable.toNat = enableByte s.cfg
          { powerOn := (mergeProfile p).powerOn, active := (mergeProfile p).active, wait := (mergeProfile p).wait,
            interrupts := (mergeProfile p).interrupts }
      ∧ (∀ x, x ∉ hostWritten s.cfg → r.regByte x = s.regByte x) ∧ r.chip.latch = s.chip.latch

/-- R139 and R181: a step of WR_PROFILE changes ENABLE only as its last, acknowledged one, with no component write left;
a step that fails leaves ENABLE as it was and ends the operation (a failed write of ENABLE itself: log 9). -/
def Obligations.EnableWrittenLast : Prop :=
  ∀ (s t : State) (p : PartialProfile), s.sound = true → exec (.wrProfile p) s = .next t →
    (t.regByte s.cfg.aEnable.toNat ≠ s.regByte s.cfg.aEnable.toNat →
      (∃ job, s.job = some job ∧ job.pending = []) ∧ t.job = none ∧ t.out = some .acknowledged ∧ t.err = none)
    ∧ (∀ landed, s.answer = .fail landed →
      t.regByte s.cfg.aEnable.toNat = s.regByte s.cfg.aEnable.toNat ∧ t.job = none ∧ t.out = s.out ∧ t.err ≠ none)

/-- R139, U6: when a write of WR_THRESH or WR_PROFILE fails, every register the failed write does not name keeps its
byte, and every one it names holds its previous byte or its new one; a failed write of ENABLE changes none. Which write
comes next is the environment's pick (log 22), and that ENABLE does not land is log 9's. -/
def Obligations.FailedWriteLeavesOldOrNew : Prop :=
  (∀ (s : State) (low high : Int) (bs : List Byte) (landed : List Bool), cfgWellFormed s.cfg = true →
    s.answer = .fail landed → encodeThreshold low high = .ok bs → ∃ t : State,
    exec (.wrThresh low high) s = .next t ∧ t.err = some .transport ∧ t.out = s.out
    ∧ (∀ a, t.regByte a = s.regByte a
        ∨ s.cfg.aAiltl.toNat ≤ a ∧ a < s.cfg.aAiltl.toNat + 4 ∧ t.regByte a = bs.getD (a - s.cfg.aAiltl.toNat) 0))
  ∧ (∀ (s : State) (p : PartialProfile) (job : WriteJob) (landed : List Bool), cfgWellFormed s.cfg = true →
    s.answer = .fail landed →
    (s.job = none ∧ encodeProfile s.cfg (mergeProfile p) = .ok job ∨ s.job = some job ∧ jobOk s.cfg job = true) →
    ∃ t : State,
    exec (.wrProfile p) s = .next t ∧ t.err = some .transport ∧ t.out = s.out ∧ t.job = none
    ∧ (∀ w : RegWrite, job.pending[s.pick % job.pending.length]? = some w → ∀ a, t.regByte a = s.regByte a
        ∨ w.address.toNat ≤ a ∧ a < w.address.toNat + w.bytes.length
            ∧ t.regByte a = w.bytes.getD (a - w.address.toNat) 0)
    ∧ (job.pending = [] → ∀ a, t.regByte a = s.regByte a))

/-! ### The bus and the register file -/

/-- U3, U4, U12, U17 (R19, R28 to R30, R37, R43, R45, R62): hand-built primitives that the spec refuses stop by name: a
byte with the indicator clear, a transfer past 0x1F, a type that is none of the three or does not suit the primitive, a
repeated write of several bytes, a write whose first forbidden register is read-only or reserved, another special
function; and a step that does a hand-built primitive ends as the primitive does. That such a primitive stops the model
is its choice (log 7, log 8), as the queue and the schedule are (log 1, log 20). -/
def Obligations.HandBuiltPrimitivesRefused : Prop :=
  (∀ (s : State) (a : BitVec 5) (ty : BitVec 2) (bs : List Byte) (n : Nat), cfgWellFormed s.cfg = true →
    (busRead (commandByte a ty false) n s = .refused (.indicatorClear (commandByte a ty false))
      ∧ busWrite (commandByte a ty false) bs s = .refused (.indicatorClear (commandByte a ty false))
      ∧ busSpecial (commandByte a ty false) s = .refused (.indicatorClear (commandByte a ty false)))
    ∧ (32 < a.toNat + n →
        busRead (commandByte a s.cfg.tAutoinc true) n s = .fault (.pastRegisterSpace a.toNat n))
    ∧ (32 < a.toNat + bs.length →
        busWrite (commandByte a s.cfg.tAutoinc true) bs s = .fault (.pastRegisterSpace a.toNat bs.length))
    ∧ (ty ≠ s.cfg.tAutoinc → ty ≠ s.cfg.tRepeat →
        busRead (commandByte a ty true) n s = .refused (.typeUndescribed (commandByte a ty true))
        ∧ busWrite (commandByte a ty true) bs s = .refused (.typeUndescribed (commandByte a ty true)))
    ∧ (ty ≠ s.cfg.tSpecial →
        busSpecial (commandByte a ty true) s = .refused (.typeUndescribed (commandByte a ty true)))
    ∧ (1 < bs.length →
        busWrite (commandByte a s.cfg.tRepeat true) bs s = .refused (.repeatedWrite bs.length))
    ∧ (∀ i < bs.length, (∀ j < i, a.toNat + j ∈ hostWritten s.cfg) →
        (a.toNat + i ∈ readOnly s.cfg → a.toNat + bs.length ≤ 32 →
          busWrite (commandByte a s.cfg.tAutoinc true) bs s = .refused (.readOnlyWrite (a.toNat + i)))
        ∧ (a.toNat + i ∉ namedRegisters s.cfg → a.toNat + bs.length ≤ 32 →
          busWrite (commandByte a s.cfg.tAutoinc true) bs s = .refused (.reservedWrite (a.toNat + i))))
    ∧ (bs.length = 1 → a.toNat ∈ readOnly s.cfg →
        busWrite (commandByte a s.cfg.tRepeat true) bs s = .refused (.readOnlyWrite a.toNat))
    ∧ (bs.length = 1 → a.toNat ∉ namedRegisters s.cfg →
        busWrite (commandByte a s.cfg.tRepeat true) bs s = .refused (.reservedWrite a.toNat))
    ∧ (a ≠ s.cfg.fClear →
        busSpecial (commandByte a s.cfg.tSpecial true) s = .refused (.reservedFunction a)))
  ∧ (∀ (s : State) (b : BusRequest) (rest : List HostCommand),
    s.schedule = [] ∨ s.schedule.head? = some .foreground → s.queue = .bus b :: rest →
    step s = match busTurn b { s with schedule := s.schedule.tail, queue := rest } with
      | .next t => .next (observeEdge s t)
      | .fault f => .fault f
      | .refused f => .refused f)

/-! ### The whole machine -/

/-- No step changes the parameters (R9). -/
def Obligations.ParametersNeverChange : Prop :=
  ∀ s t : State, step s = .next t → t.cfg = s.cfg

/-- Every step keeps the invariant: parameters well-formed, the register file in canonical form, the session's handles,
timers, watcher and progress in agreement with its lifecycle state, every job's component writes clear of ENABLE, and an
edge pending only while the condition is latched (R166; log 23). -/
def Obligations.StepKeepsSound : Prop :=
  ∀ s t : State, s.sound = true → step s = .next t → t.sound = true

/-- The reset state meets the invariant; its session is `Unconfigured` with no handle, profile or window (R36). -/
def Obligations.ResetIsSound : Prop :=
  State.reset.sound = true ∧ State.reset.session.lifecycle = .unconfigured ∧ State.reset.session.bus = false
    ∧ State.reset.session.led = none ∧ State.reset.session.line = false ∧ State.reset.session.profile = none
    ∧ State.reset.session.window = none

/-- From a sound state every step answers a next state, whoever moves and whatever the environment answers, unless the
foreground moves and is to do a bus primitive that was built by hand (R150: operations raise, they do not stop). That a
step with nothing to do answers the same state is the model's choice (log 20). -/
def Obligations.SoundStepsAnswer : Prop :=
  ∀ s : State, s.sound = true → s.handBuilt = false ∨ (∃ u rest, s.schedule = u :: rest ∧ u ≠ .foreground) →
    ∃ t, step s = .next t

/-- R28 to R30, R168: the identity register never changes, and STATUS and the data registers change only when the chip
moves, be it at a turn of its own or between the accesses of a repeated read built by hand. R45: such a read of `n` bytes
is `n` successive reads of one register. The host's registers read the same at every access, and so does every register
when the chip does nothing meanwhile. While interrupts are enabled, the violation bit of STATUS is set at every access
once it has been set at one or the condition was latched before, and the last access shows the latch the read leaves (R155:
no clear falls inside it). The form of what the chip does meanwhile is log 11's. -/
def Obligations.ReadOnlyRegistersAreTheChips : Prop :=
  (∀ (s t : State) (a : Nat), s.sound = true → step s = .next t → a ∈ readOnly s.cfg → t.regByte a ≠ s.regByte a →
    a ≠ s.cfg.aId.toNat
      ∧ ((∃ act rest, s.schedule = .chip act :: rest) ∨ ∃ n, s.repeatsRead n ∧ s.interludes.take (n - 1) ≠ []))
  ∧ (∀ (s : State) (a : BitVec 5) (n : Nat), cfgWellFormed s.cfg = true → s.answer = .ok →
    ∃ (bs : List Byte) (t : State), busRead (commandByte a s.cfg.tRepeat true) n s = .ok bs t ∧ bs.length = n
      ∧ t = { s.answered with chip := t.chip, interludes := s.interludes.drop (n - 1), draws := t.draws }
      ∧ (∀ x, x ∉ chipWritten s.cfg → t.regByte x = s.regByte x)
      ∧ (a.toNat ∉ chipWritten s.cfg ∨ s.interludes = [] → ∀ i < n,
          bs.getD i 0 &&& describedBits s.cfg a.toNat = s.heldByte a.toNat &&& describedBits s.cfg a.toNat)
      ∧ (a = s.cfg.aStatus → s.enableNow.interrupts = true →
          (∀ i < n, s.chip.latch = true → bs.getD i 0 &&& s.cfg.mAint ≠ 0)
          ∧ (∀ i < n, ∀ j < n, i ≤ j → bs.getD i 0 &&& s.cfg.mAint ≠ 0 → bs.getD j 0 &&& s.cfg.mAint ≠ 0)
          ∧ (0 < n → (bs.getD (n - 1) 0 &&& s.cfg.mAint ≠ 0 ↔ t.chip.latch = true))))

/-- R155, R31 (a): the latch is set only by a completed integration cycle of the chip, at a turn of its own or between
the accesses of a repeated read built by hand (R45; log 11), and cleared only by a turn of the host that may issue the
clear: never by the chip, a timer or a lifecycle call. -/
def Obligations.LatchSetByCompletedCycleOnly : Prop :=
  ∀ s t : State, step s = .next t →
    (s.chip.latch = false → t.chip.latch = true → (∃ status x m rest, s.schedule = .chip (.cycle status x m) :: rest)
      ∨ ∃ n, s.repeatsRead n ∧ ∃ acts ∈ s.interludes.take (n - 1), ∃ status x m, .cycle status x m ∈ acts)
    ∧ (s.chip.latch = true → t.chip.latch = false → s.schedule = [] ∨
        ∃ u rest, s.schedule = u :: rest ∧ u ∈ [Turn.foreground, .setup, .poll, .irq])

/-- R153, R154: a completed cycle counts the sample when it lies outside the window and restarts the count otherwise;
with a count `n` in PERS and interrupts enabled, it latches the condition exactly when the new count reaches `n`, and a
latched condition stays; an attached watcher sees an edge exactly when the condition is newly latched (R156, R167). That
the count is over completed samples as the schedule brings them is log 18, that it may be lost while conversion is off
is log 42, and that a seen edge is kept is log 23. -/
def Obligations.ComparatorCountsAndLatches : Prop :=
  ∀ (s t : State) (status : Byte) (x : Sample) (m : Bool) (rest : List Turn) (n : Nat), s.sound = true →
    s.schedule = .chip (.cycle status x m) :: rest → step s = .next t →
    s.enableNow = { powerOn := true, active := true, wait := s.enableNow.wait, interrupts := true } →
    s.filterNow = .count n →
    t.chip.run = (if s.bandNow.high.toNat < x.clear.toNat ∨ x.clear.toNat < s.bandNow.low.toNat then s.chip.run + 1
      else 0)
    ∧ (t.chip.latch = true ↔ s.chip.latch = true ∨ n ≤ t.chip.run)
    ∧ (s.session.watcher = true →
      (t.session.edge = true ↔ s.session.edge = true ∨ s.chip.latch = false ∧ t.chip.latch = true))

/-- R156, R166, R167: the handler starts only on a rising edge the attached watcher has seen, with none in progress, while
the latch and STATUS `thresholdViolation` are set; entry changes nothing but the handler's progress and the edge. A step
that clears the latch leaves no edge pending, so that in a sound state with interrupts enabled a pending edge is all that
the entry needs. The pending edge, that a clear ends it, and that it waits while masking hides the violation are the
model's (log 23). -/
def Obligations.HandlerEntrySavesNothing : Prop :=
  (∀ (s : State) (rest : List Turn), s.schedule = .irq :: rest → s.session.irq = none →
    (s.session.watcher = true → s.session.edge = true → s.chip.latch = true → s.statusByte &&& s.cfg.mAint ≠ 0 →
      step s = .next { s with
        schedule := rest, session := { s.session with edge := false, irq := some .readBoth } })
    ∧ (s.session.watcher = false ∨ s.session.edge = false ∨ s.chip.latch = false ∨ s.statusByte &&& s.cfg.mAint = 0 →
      step s = .next { s with schedule := rest })
    ∧ (s.sound = true → s.session.edge = true → s.enableNow.interrupts = true →
      step s = .next { s with
        schedule := rest, session := { s.session with edge := false, irq := some .readBoth } }))
  ∧ (∀ s t : State, step s = .next t → s.chip.latch = true → t.chip.latch = false → t.session.edge = false)

/-- R158: once started, the handler of a running session runs to its end when each transaction is acknowledged. On a
sample outside the window, be it conventional or inverted with a result inside 16 bits: four steps, after which the
threshold registers hold the controller's window for the window and the sample that stood there, the latch is cleared
and the session's copy follows (log 29). On a sample inside it (R124, R184): three steps, or four with the redundant
write (log 22), after which the condition is logged, every register is as it was and the latch is cleared all the same;
the step event (log 31) and that the session's copy stays as it was (log 43) are the model's choices there. -/
def Obligations.ServiceNetEffect : Prop :=
  ∀ (s : State) (hc : HostConfig) (rest : List Turn), s.sound = true →
    s.schedule = .irq :: .irq :: .irq :: .irq :: rest → s.answers = [] → s.session.bus = true →
    s.session.config = some hc → s.session.irq = some .readBoth →
    let clear := le16 (s.regByte s.cfg.aCdatal.toNat) (s.regByte (s.cfg.aCdatal.toNat + 1))
    let r := tstep hc.strategy s.bandNow clear
    (r.direction ≠ .inside →
      s.bandNow.low.toNat ≤ s.bandNow.high.toNat
        ∨ 0 ≤ r.newLow ∧ r.newLow ≤ 0xFFFF ∧ 0 ≤ r.newHigh ∧ r.newHigh ≤ 0xFFFF →
      ∃ t : State, core.run 4 s = .next t ∧ t.session.irq = none ∧ t.schedule = rest ∧ t.chip.latch = false
        ∧ (t.bandNow.low.toNat : Int) = r.newLow ∧ (t.bandNow.high.toNat : Int) = r.newHigh
        ∧ t.session.window = some { low := r.newLow, high := r.newHigh }
        ∧ (∀ a, a < s.cfg.aAiltl.toNat ∨ s.cfg.aAiltl.toNat + 4 ≤ a → t.regByte a = s.regByte a)
        ∧ t.log = s.log
        ∧ ∃ stamp, t.events =
            .step { low := r.newLow, high := r.newHigh } r.direction clear stamp :: s.events)
    ∧ (r.direction = .inside →
      ∃ (k : Nat) (t : State), (k = 3 ∨ k = 4) ∧ core.run k s = .next t ∧ t.session.irq = none
        ∧ t.schedule = s.schedule.drop k ∧ t.chip.latch = false ∧ (∀ a, t.regByte a = s.regByte a)
        ∧ t.session.window = s.session.window ∧ t.log = (.irq, .anomalousInterrupt) :: s.log
        ∧ ∃ stamp, t.events =
            .step { low := s.bandNow.low.toNat, high := s.bandNow.high.toNat } .inside clear stamp :: s.events)

/-- U18, R185, R167: the stuck interrupt path stays stuck, its latch set, whatever the chip does, through every turn of
the interrupt path, of either timer, of the poll path with software interrupts disabled and of the setup sequence, and
through the calls that do not stop the session; and it stays stuck through every turn of the foreground that leaves the
latch set, be it one that masks interrupts and enables them again: only a clear recovers. What `hung` says is in
Safety.lean; the pending edge is the model's (log 23), that unmasking gives no edge is log 40's reading. -/
def Obligations.HungPathStaysHung : Prop :=
  ∀ s t : State, s.sound = true → s.hung = true → step s = .next t →
    (∀ (u : Turn) (rest : List Turn), s.schedule = u :: rest → u ≠ .foreground → u ≠ .call .stop → t.hung = true)
    ∧ (s.schedule = [] ∨ s.schedule.head? = some .foreground → t.chip.latch = true → t.hung = true)

/-- R162 to R164, R174: a transport failure in `Connecting`, `VerifyingIdentity` or `ApplyingProfile`, and a profile an
encoder refuses, release what was acquired, arm the one retry timer, log the failure and leave ENABLE as it was; the
timer starts the setup again. `stop` in `Running` or `RetryWaiting` destroys the session, leaves the chip alone and ends
in `Stopped`, which no timer, no setup and no other step leaves. The refused profile and a failed start-up clear are
log 28's; that `stop` ends so in `RetryWaiting`, and that the configuration stays, is log 26's. -/
def Obligations.RetryAndStop : Prop :=
  (∀ (s : State) (rest : List Turn) (hc : HostConfig) (landed : List Bool), s.sound = true →
    s.schedule = .setup :: rest → s.session.config = some hc → s.answer = .fail landed →
    s.session.lifecycle = .connecting ∨ s.session.lifecycle = .verifyingIdentity
      ∨ s.session.lifecycle = .applyingProfile ∧ (s.session.applying.isSome = true
          ∨ ∃ job, encodeProfile s.cfg (mergeProfile hc.profile) = .ok job) →
    ∃ t : State, step s = .next t
      ∧ t.session = { s.session with
          lifecycle := .retryWaiting, bus := false, led := none, line := false, applying := none,
          retryTimer := some Config.retryInterval }
      ∧ t.log = (.setup, .transport) :: s.log
      ∧ t.regByte s.cfg.aEnable.toNat = s.regByte s.cfg.aEnable.toNat)
  ∧ (∀ (s : State) (rest : List Turn) (hc : HostConfig) (e : OpError),
    s.schedule = .setup :: rest → s.session.config = some hc → s.session.lifecycle = .applyingProfile →
    s.session.applying = none → encodeProfile s.cfg (mergeProfile hc.profile) = .error e →
    step s = .next { s with
      schedule := rest
      session := { s.session with
        lifecycle := .retryWaiting, bus := false, led := none, line := false, applying := none,
        retryTimer := some Config.retryInterval }
      log := (.setup, .domain e) :: s.log })
  ∧ (∀ (s : State) (rest : List Turn),
    s.schedule = .retryFires :: rest → s.session.lifecycle = .retryWaiting → s.session.retryTimer.isSome = true →
    step s = .next { s with
      schedule := rest, session := { s.session with lifecycle := .connecting, retryTimer := none } })
  ∧ (∀ (s : State) (u : Turn) (rest : List Turn),
    s.schedule = .call .stop :: u :: rest → u ∈ [Turn.setup, .retryFires, .pollFires] →
    s.session.lifecycle = .running ∨ s.session.lifecycle = .retryWaiting → ∃ t : State,
      core.run 2 s = .next t ∧ t.schedule = rest ∧ t.chip = s.chip
      ∧ t.session = { s.session with
          lifecycle := .stopped, profile := none, window := none, bus := false, led := none, line := false,
          pollTimer := none, retryTimer := none, watcher := false, edge := false })
  ∧ (∀ s t : State, s.session.lifecycle = .stopped → step s = .next t → t.session.lifecycle = .stopped)

/-- R152, R158, R185: a failing transaction of a running session's handler or poll ends that invocation only, logged as
a transport failure, with the session still `Running` and its bus held; a controller result that the threshold encoder
refuses (R132) ends the handler or the poll's service, logged, with no register written and the latch as it was. -/
def Obligations.HandlerFailureEndsHandlerOnly : Prop :=
  (∀ (s : State) (q : ServicePhase) (rest : List Turn) (landed : List Bool), s.sound = true →
    s.session.lifecycle = .running → s.answer = .fail landed →
    (∀ r, q = .write r ∨ q = .rewrite r → ∃ bs, encodeThreshold r.newLow r.newHigh = .ok bs) →
    (s.schedule = .irq :: rest → s.session.irq = some q → ∃ t : State, step s = .next t
      ∧ t.session.lifecycle = .running ∧ t.session.bus = true ∧ t.session.irq = none
      ∧ t.session.poll = s.session.poll ∧ t.log = (.irq, .transport) :: s.log)
    ∧ (s.schedule = .poll :: rest → s.session.poll = some (.service q) → ∃ t : State, step s = .next t
      ∧ t.session.lifecycle = .running ∧ t.session.bus = true ∧ t.session.poll = none
      ∧ t.session.irq = s.session.irq ∧ t.log = (.poll, .transport) :: s.log))
  ∧ (∀ (s : State) (p : PollPhase) (rest : List Turn) (landed : List Bool), s.sound = true →
    s.session.lifecycle = .running → s.answer = .fail landed → s.schedule = .poll :: rest →
    s.session.poll = some p → (p = .read ∨ ∃ r, p = .readData r) →
    ∃ t : State, step s = .next t ∧ t.chip = s.chip ∧ t.events = s.events
      ∧ t.session = { s.session with poll := none } ∧ t.log = (.poll, .transport) :: s.log)
  ∧ (∀ (s : State) (hc : HostConfig) (q : ServicePhase) (r : ControllerStep) (e : OpError) (rest : List Turn),
    s.session.bus = true → s.session.config = some hc → q = .write r ∨ q = .rewrite r →
    encodeThreshold r.newLow r.newHigh = .error e →
    (s.schedule = .irq :: rest → s.session.irq = some q → step s = .next { s with
      schedule := rest, session := { s.session with irq := none }, log := (.irq, .domain e) :: s.log })
    ∧ (s.schedule = .poll :: rest → s.session.poll = some (.service q) → step s = .next { s with
      schedule := rest, session := { s.session with poll := none }, log := (.poll, .domain e) :: s.log }))

/-- R160, R162, R157, R178, R179: `setupWithRetry` takes the session from `Unconfigured` to `Connecting`; a granted bus
takes it on to `VerifyingIdentity`; in `ApplyingProfile` each acknowledged turn issues one write of the session's
profile, a component write of the environment's pick (log 22) and at last ENABLE, after which the session is `Running`
with its profile and window, or, when configured so, once the interrupt has been cleared as well; `start` in `Running`
starts the poll timer and attaches the watcher to the line when it is held; the poll timer's tick then starts the poll
path. -/
def Obligations.LifecycleSetupAndStart : Prop :=
  (∀ (s : State) (hc : HostConfig) (rest : List Turn),
    s.schedule = .call (.setupWithRetry hc) :: .setup :: rest → s.session.lifecycle = .unconfigured →
    s.answer = .ok → ∃ t : State, core.run 2 s = .next t ∧ t.schedule = rest ∧ t.chip = s.chip
      ∧ t.session = { s.session with lifecycle := .verifyingIdentity, config := some hc, bus := true })
  ∧ (∀ (s : State) (hc : HostConfig) (job : WriteJob) (rest : List Turn), s.sound = true →
    s.schedule = .setup :: rest → s.session.lifecycle = .applyingProfile → s.session.config = some hc →
    s.answer = .ok →
    s.session.applying = none ∧ encodeProfile s.cfg (mergeProfile hc.profile) = .ok job
      ∨ s.session.applying = some (.write job) →
    (∀ w : RegWrite, job.pending[s.pick % job.pending.length]? = some w → ∃ t : State, step s = .next t
      ∧ t.session = { s.session with
          applying := some (.write { job with pending := job.pending.eraseIdx (s.pick % job.pending.length) }) }
      ∧ (∀ i < w.bytes.length, t.regByte (w.address.toNat + i) = w.bytes.getD i 0)
      ∧ (∀ a, a < w.address.toNat ∨ w.address.toNat + w.bytes.length ≤ a → t.regByte a = s.regByte a))
    ∧ (job.pending = [] → ∃ t : State, step s = .next t
      ∧ t.session = (if hc.startupClear then { s.session with applying := some .clear } else
          { s.session with
            lifecycle := .running, applying := none, profile := some (mergeProfile hc.profile)
            window := some (mergeProfile hc.profile).threshold })
      ∧ (∀ a, t.regByte a = if a = s.cfg.aEnable.toNat then job.enable.bytes.getD 0 0 else s.regByte a)))
  ∧ (∀ (s : State) (hc : HostConfig) (rest : List Turn), s.sound = true →
    s.schedule = .setup :: rest → s.session.lifecycle = .applyingProfile → s.session.config = some hc →
    s.answer = .ok → s.session.applying = some .clear → ∃ t : State, step s = .next t
      ∧ t.session = { s.session with
          lifecycle := .running, applying := none, profile := some (mergeProfile hc.profile)
          window := some (mergeProfile hc.profile).threshold }
      ∧ t.chip.latch = false ∧ ∀ a, t.regByte a = s.regByte a)
  ∧ (∀ (s : State) (rest : List Turn),
    s.schedule = .call .start :: .pollFires :: rest → s.session.lifecycle = .running → s.session.poll = none →
    ∃ t : State, core.run 2 s = .next t ∧ t.schedule = rest ∧ t.chip = s.chip
      ∧ t.session = { s.session with
          pollTimer := some Config.pollInterval, watcher := s.session.line, poll := some .read })

/-- R161 to R163: with the read acknowledged, an identity byte other than `CHIP_ID` sends the setup to `RetryWaiting`
with everything released and the retry timer armed, and `CHIP_ID` sends it on to `ApplyingProfile`, bus held, whether or
not the peripherals can be acquired. -/
def Obligations.SetupVerifiesIdentity : Prop :=
  ∀ (s : State) (hc : HostConfig) (rest : List Turn), cfgWellFormed s.cfg = true → s.schedule = .setup :: rest →
    s.session.lifecycle = .verifyingIdentity → s.session.config = some hc → s.answer = .ok →
    ∃ t : State, step s = .next t ∧ t.chip = s.chip
      ∧ (s.regByte s.cfg.aId.toNat ≠ s.cfg.chipId → t.session.lifecycle = .retryWaiting ∧ t.session.bus = false
          ∧ t.session.led = none ∧ t.session.line = false ∧ t.session.retryTimer = some Config.retryInterval
          ∧ t.log = (.setup, .identityMismatch) :: s.log)
      ∧ (s.regByte s.cfg.aId.toNat = s.cfg.chipId → t.session.lifecycle = .applyingProfile
          ∧ t.session.bus = s.session.bus ∧ t.session.retryTimer = s.session.retryTimer)

/-- R157, R159: the poll's acknowledged data read switches a held LED off and emits the data event with the measurement
and what the poll read; it then serves a violation exactly when the poll saw one and software interrupts are enabled, from a
fresh read of the window when the session is configured so (the other sources: log 25; the order of LED and event:
log 32). -/
def Obligations.PollEmitsAndServes : Prop :=
  ∀ (s : State) (hc : HostConfig) (r : PollResult) (rest : List Turn), cfgWellFormed s.cfg = true →
    s.schedule = .poll :: rest → s.session.poll = some (.readData r) → s.session.config = some hc →
    s.session.bus = true → s.answer = .ok →
    ∃ (t : State) (x : Sample), step s = .next t ∧ t.chip = s.chip
      ∧ x.clear = le16 (s.regByte s.cfg.aCdatal.toNat) (s.regByte (s.cfg.aCdatal.toNat + 1))
      ∧ x.red = le16 (s.regByte (s.cfg.aCdatal.toNat + 2)) (s.regByte (s.cfg.aCdatal.toNat + 3))
      ∧ x.green = le16 (s.regByte (s.cfg.aCdatal.toNat + 4)) (s.regByte (s.cfg.aCdatal.toNat + 5))
      ∧ x.blue = le16 (s.regByte (s.cfg.aCdatal.toNat + 6)) (s.regByte (s.cfg.aCdatal.toNat + 7))
      ∧ (HostEvent.data (derive x) r :: s.events) <:+ t.events
      ∧ t.session.led = s.session.led.map (fun _ => false)
      ∧ (r.violation = true ∧ hc.softwareInterrupt = true → t.session.poll.isSome = true)
      ∧ (r.violation = true ∧ hc.softwareInterrupt = true ∧ hc.windowSource = .freshRead →
          t.session.poll = some (.service (.readThreshold x.clear)))
      ∧ (r.violation = false ∨ hc.softwareInterrupt = false → t.session.poll = none)
end

