-- ==== Sys2Proof/Laws/State.lean ====
section
/-! SUPPORT. One lemma per field per update of the state, each true by rfl, so that no later proof unfolds a record
update. -/

namespace Sys2Proof.Machine

variable (s : State)

/-! ### `accept` -/

@[simp] theorem State.accept_cfg (r : Result) : (s.accept r).cfg = s.cfg := rfl
@[simp] theorem State.accept_out (r : Result) : (s.accept r).out = some r := rfl
@[simp] theorem State.accept_err (r : Result) : (s.accept r).err = none := rfl
@[simp] theorem State.accept_chip (r : Result) : (s.accept r).chip = s.chip := rfl
@[simp] theorem State.accept_session (r : Result) : (s.accept r).session = s.session := rfl
@[simp] theorem State.accept_queue (r : Result) : (s.accept r).queue = s.queue := rfl
@[simp] theorem State.accept_job (r : Result) : (s.accept r).job = s.job := rfl
@[simp] theorem State.accept_events (r : Result) : (s.accept r).events = s.events := rfl
@[simp] theorem State.accept_log (r : Result) : (s.accept r).log = s.log := rfl
@[simp] theorem State.accept_schedule (r : Result) : (s.accept r).schedule = s.schedule := rfl
@[simp] theorem State.accept_answers (r : Result) : (s.accept r).answers = s.answers := rfl
@[simp] theorem State.accept_picks (r : Result) : (s.accept r).picks = s.picks := rfl
@[simp] theorem State.accept_interludes (r : Result) : (s.accept r).interludes = s.interludes := rfl
@[simp] theorem State.accept_draws (r : Result) : (s.accept r).draws = s.draws := rfl

/-! ### `raise` -/

@[simp] theorem State.raise_cfg (f : Failure) : (s.raise f).cfg = s.cfg := rfl
@[simp] theorem State.raise_out (f : Failure) : (s.raise f).out = s.out := rfl
@[simp] theorem State.raise_err (f : Failure) : (s.raise f).err = some f := rfl
@[simp] theorem State.raise_chip (f : Failure) : (s.raise f).chip = s.chip := rfl
@[simp] theorem State.raise_session (f : Failure) : (s.raise f).session = s.session := rfl
@[simp] theorem State.raise_queue (f : Failure) : (s.raise f).queue = s.queue := rfl
@[simp] theorem State.raise_job (f : Failure) : (s.raise f).job = s.job := rfl
@[simp] theorem State.raise_events (f : Failure) : (s.raise f).events = s.events := rfl
@[simp] theorem State.raise_log (f : Failure) : (s.raise f).log = s.log := rfl
@[simp] theorem State.raise_schedule (f : Failure) : (s.raise f).schedule = s.schedule := rfl
@[simp] theorem State.raise_answers (f : Failure) : (s.raise f).answers = s.answers := rfl
@[simp] theorem State.raise_picks (f : Failure) : (s.raise f).picks = s.picks := rfl
@[simp] theorem State.raise_interludes (f : Failure) : (s.raise f).interludes = s.interludes := rfl
@[simp] theorem State.raise_draws (f : Failure) : (s.raise f).draws = s.draws := rfl

/-! ### `setReg` -/

@[simp] theorem State.setReg_cfg (a : Nat) (b : Byte) : (s.setReg a b).cfg = s.cfg := rfl
@[simp] theorem State.setReg_out (a : Nat) (b : Byte) : (s.setReg a b).out = s.out := rfl
@[simp] theorem State.setReg_err (a : Nat) (b : Byte) : (s.setReg a b).err = s.err := rfl
@[simp] theorem State.setReg_chip (a : Nat) (b : Byte) : (s.setReg a b).chip =
    { s.chip with reg := memWrite s.cfg.resetReg s.chip.reg a b } := rfl
@[simp] theorem State.setReg_session (a : Nat) (b : Byte) : (s.setReg a b).session = s.session := rfl
@[simp] theorem State.setReg_queue (a : Nat) (b : Byte) : (s.setReg a b).queue = s.queue := rfl
@[simp] theorem State.setReg_job (a : Nat) (b : Byte) : (s.setReg a b).job = s.job := rfl
@[simp] theorem State.setReg_events (a : Nat) (b : Byte) : (s.setReg a b).events = s.events := rfl
@[simp] theorem State.setReg_log (a : Nat) (b : Byte) : (s.setReg a b).log = s.log := rfl
@[simp] theorem State.setReg_schedule (a : Nat) (b : Byte) : (s.setReg a b).schedule = s.schedule := rfl
@[simp] theorem State.setReg_answers (a : Nat) (b : Byte) : (s.setReg a b).answers = s.answers := rfl
@[simp] theorem State.setReg_picks (a : Nat) (b : Byte) : (s.setReg a b).picks = s.picks := rfl
@[simp] theorem State.setReg_interludes (a : Nat) (b : Byte) : (s.setReg a b).interludes = s.interludes := rfl
@[simp] theorem State.setReg_draws (a : Nat) (b : Byte) : (s.setReg a b).draws = s.draws := rfl

/-! ### `clearLatch` -/

@[simp] theorem State.clearLatch_cfg : (s.clearLatch).cfg = s.cfg := rfl
@[simp] theorem State.clearLatch_out : (s.clearLatch).out = s.out := rfl
@[simp] theorem State.clearLatch_err : (s.clearLatch).err = s.err := rfl
@[simp] theorem State.clearLatch_chip : (s.clearLatch).chip =
    { s.chip with latch := false, run := if Config.clearRestartsRun then 0 else s.chip.run } := rfl
@[simp] theorem State.clearLatch_session : (s.clearLatch).session = s.session := rfl
@[simp] theorem State.clearLatch_queue : (s.clearLatch).queue = s.queue := rfl
@[simp] theorem State.clearLatch_job : (s.clearLatch).job = s.job := rfl
@[simp] theorem State.clearLatch_events : (s.clearLatch).events = s.events := rfl
@[simp] theorem State.clearLatch_log : (s.clearLatch).log = s.log := rfl
@[simp] theorem State.clearLatch_schedule : (s.clearLatch).schedule = s.schedule := rfl
@[simp] theorem State.clearLatch_answers : (s.clearLatch).answers = s.answers := rfl
@[simp] theorem State.clearLatch_picks : (s.clearLatch).picks = s.picks := rfl
@[simp] theorem State.clearLatch_interludes : (s.clearLatch).interludes = s.interludes := rfl
@[simp] theorem State.clearLatch_draws : (s.clearLatch).draws = s.draws := rfl

/-! ### `answered` -/

@[simp] theorem State.answered_cfg : (s.answered).cfg = s.cfg := rfl
@[simp] theorem State.answered_out : (s.answered).out = s.out := rfl
@[simp] theorem State.answered_err : (s.answered).err = s.err := rfl
@[simp] theorem State.answered_chip : (s.answered).chip = s.chip := rfl
@[simp] theorem State.answered_session : (s.answered).session = s.session := rfl
@[simp] theorem State.answered_queue : (s.answered).queue = s.queue := rfl
@[simp] theorem State.answered_job : (s.answered).job = s.job := rfl
@[simp] theorem State.answered_events : (s.answered).events = s.events := rfl
@[simp] theorem State.answered_log : (s.answered).log = s.log := rfl
@[simp] theorem State.answered_schedule : (s.answered).schedule = s.schedule := rfl
@[simp] theorem State.answered_answers : (s.answered).answers = s.answers.tail := rfl
@[simp] theorem State.answered_picks : (s.answered).picks = s.picks := rfl
@[simp] theorem State.answered_interludes : (s.answered).interludes = s.interludes := rfl
@[simp] theorem State.answered_draws : (s.answered).draws = s.draws + 1 := rfl

/-! ### `picked` -/

@[simp] theorem State.picked_cfg : (s.picked).cfg = s.cfg := rfl
@[simp] theorem State.picked_out : (s.picked).out = s.out := rfl
@[simp] theorem State.picked_err : (s.picked).err = s.err := rfl
@[simp] theorem State.picked_chip : (s.picked).chip = s.chip := rfl
@[simp] theorem State.picked_session : (s.picked).session = s.session := rfl
@[simp] theorem State.picked_queue : (s.picked).queue = s.queue := rfl
@[simp] theorem State.picked_job : (s.picked).job = s.job := rfl
@[simp] theorem State.picked_events : (s.picked).events = s.events := rfl
@[simp] theorem State.picked_log : (s.picked).log = s.log := rfl
@[simp] theorem State.picked_schedule : (s.picked).schedule = s.schedule := rfl
@[simp] theorem State.picked_answers : (s.picked).answers = s.answers := rfl
@[simp] theorem State.picked_picks : (s.picked).picks = s.picks.tail := rfl
@[simp] theorem State.picked_interludes : (s.picked).interludes = s.interludes := rfl
@[simp] theorem State.picked_draws : (s.picked).draws = s.draws := rfl

/-! ### `setEdge` -/

@[simp] theorem State.setEdge_cfg (e : Bool) : (s.setEdge e).cfg = s.cfg := rfl
@[simp] theorem State.setEdge_out (e : Bool) : (s.setEdge e).out = s.out := rfl
@[simp] theorem State.setEdge_err (e : Bool) : (s.setEdge e).err = s.err := rfl
@[simp] theorem State.setEdge_chip (e : Bool) : (s.setEdge e).chip = s.chip := rfl
@[simp] theorem State.setEdge_session (e : Bool) : (s.setEdge e).session = { s.session with edge := e } := rfl
@[simp] theorem State.setEdge_queue (e : Bool) : (s.setEdge e).queue = s.queue := rfl
@[simp] theorem State.setEdge_job (e : Bool) : (s.setEdge e).job = s.job := rfl
@[simp] theorem State.setEdge_events (e : Bool) : (s.setEdge e).events = s.events := rfl
@[simp] theorem State.setEdge_log (e : Bool) : (s.setEdge e).log = s.log := rfl
@[simp] theorem State.setEdge_schedule (e : Bool) : (s.setEdge e).schedule = s.schedule := rfl
@[simp] theorem State.setEdge_answers (e : Bool) : (s.setEdge e).answers = s.answers := rfl
@[simp] theorem State.setEdge_picks (e : Bool) : (s.setEdge e).picks = s.picks := rfl
@[simp] theorem State.setEdge_interludes (e : Bool) : (s.setEdge e).interludes = s.interludes := rfl
@[simp] theorem State.setEdge_draws (e : Bool) : (s.setEdge e).draws = s.draws := rfl

/-! ### `enterHandler` -/

@[simp] theorem State.enterHandler_cfg : (s.enterHandler).cfg = s.cfg := rfl
@[simp] theorem State.enterHandler_out : (s.enterHandler).out = s.out := rfl
@[simp] theorem State.enterHandler_err : (s.enterHandler).err = s.err := rfl
@[simp] theorem State.enterHandler_chip : (s.enterHandler).chip = s.chip := rfl
@[simp] theorem State.enterHandler_session : (s.enterHandler).session =
    { s.session with edge := false, irq := some .readBoth } := rfl
@[simp] theorem State.enterHandler_queue : (s.enterHandler).queue = s.queue := rfl
@[simp] theorem State.enterHandler_job : (s.enterHandler).job = s.job := rfl
@[simp] theorem State.enterHandler_events : (s.enterHandler).events = s.events := rfl
@[simp] theorem State.enterHandler_log : (s.enterHandler).log = s.log := rfl
@[simp] theorem State.enterHandler_schedule : (s.enterHandler).schedule = s.schedule := rfl
@[simp] theorem State.enterHandler_answers : (s.enterHandler).answers = s.answers := rfl
@[simp] theorem State.enterHandler_picks : (s.enterHandler).picks = s.picks := rfl
@[simp] theorem State.enterHandler_interludes : (s.enterHandler).interludes = s.interludes := rfl
@[simp] theorem State.enterHandler_draws : (s.enterHandler).draws = s.draws := rfl

/-! ### `leaveHandler` -/

@[simp] theorem State.leaveHandler_cfg : (s.leaveHandler).cfg = s.cfg := rfl
@[simp] theorem State.leaveHandler_out : (s.leaveHandler).out = s.out := rfl
@[simp] theorem State.leaveHandler_err : (s.leaveHandler).err = s.err := rfl
@[simp] theorem State.leaveHandler_chip : (s.leaveHandler).chip = s.chip := rfl
@[simp] theorem State.leaveHandler_session : (s.leaveHandler).session = { s.session with irq := none } := rfl
@[simp] theorem State.leaveHandler_queue : (s.leaveHandler).queue = s.queue := rfl
@[simp] theorem State.leaveHandler_job : (s.leaveHandler).job = s.job := rfl
@[simp] theorem State.leaveHandler_events : (s.leaveHandler).events = s.events := rfl
@[simp] theorem State.leaveHandler_log : (s.leaveHandler).log = s.log := rfl
@[simp] theorem State.leaveHandler_schedule : (s.leaveHandler).schedule = s.schedule := rfl
@[simp] theorem State.leaveHandler_answers : (s.leaveHandler).answers = s.answers := rfl
@[simp] theorem State.leaveHandler_picks : (s.leaveHandler).picks = s.picks := rfl
@[simp] theorem State.leaveHandler_interludes : (s.leaveHandler).interludes = s.interludes := rfl
@[simp] theorem State.leaveHandler_draws : (s.leaveHandler).draws = s.draws := rfl

/-! ### `logged` -/

@[simp] theorem State.logged_cfg (who : Activity) (f : Failure) : (s.logged who f).cfg = s.cfg := rfl
@[simp] theorem State.logged_out (who : Activity) (f : Failure) : (s.logged who f).out = s.out := rfl
@[simp] theorem State.logged_err (who : Activity) (f : Failure) : (s.logged who f).err = s.err := rfl
@[simp] theorem State.logged_chip (who : Activity) (f : Failure) : (s.logged who f).chip = s.chip := rfl
@[simp] theorem State.logged_session (who : Activity) (f : Failure) : (s.logged who f).session = s.session := rfl
@[simp] theorem State.logged_queue (who : Activity) (f : Failure) : (s.logged who f).queue = s.queue := rfl
@[simp] theorem State.logged_job (who : Activity) (f : Failure) : (s.logged who f).job = s.job := rfl
@[simp] theorem State.logged_events (who : Activity) (f : Failure) : (s.logged who f).events = s.events := rfl
@[simp] theorem State.logged_log (who : Activity) (f : Failure) : (s.logged who f).log = (who, f) :: s.log := rfl
@[simp] theorem State.logged_schedule (who : Activity) (f : Failure) : (s.logged who f).schedule = s.schedule := rfl
@[simp] theorem State.logged_answers (who : Activity) (f : Failure) : (s.logged who f).answers = s.answers := rfl
@[simp] theorem State.logged_picks (who : Activity) (f : Failure) : (s.logged who f).picks = s.picks := rfl
@[simp] theorem State.logged_interludes (who : Activity) (f : Failure) : (s.logged who f).interludes = s.interludes := rfl
@[simp] theorem State.logged_draws (who : Activity) (f : Failure) : (s.logged who f).draws = s.draws := rfl

/-! ### `emit` -/

@[simp] theorem State.emit_cfg (e : HostEvent) : (s.emit e).cfg = s.cfg := rfl
@[simp] theorem State.emit_out (e : HostEvent) : (s.emit e).out = s.out := rfl
@[simp] theorem State.emit_err (e : HostEvent) : (s.emit e).err = s.err := rfl
@[simp] theorem State.emit_chip (e : HostEvent) : (s.emit e).chip = s.chip := rfl
@[simp] theorem State.emit_session (e : HostEvent) : (s.emit e).session = s.session := rfl
@[simp] theorem State.emit_queue (e : HostEvent) : (s.emit e).queue = s.queue := rfl
@[simp] theorem State.emit_job (e : HostEvent) : (s.emit e).job = s.job := rfl
@[simp] theorem State.emit_events (e : HostEvent) : (s.emit e).events = e :: s.events := rfl
@[simp] theorem State.emit_log (e : HostEvent) : (s.emit e).log = s.log := rfl
@[simp] theorem State.emit_schedule (e : HostEvent) : (s.emit e).schedule = s.schedule := rfl
@[simp] theorem State.emit_answers (e : HostEvent) : (s.emit e).answers = s.answers := rfl
@[simp] theorem State.emit_picks (e : HostEvent) : (s.emit e).picks = s.picks := rfl
@[simp] theorem State.emit_interludes (e : HostEvent) : (s.emit e).interludes = s.interludes := rfl
@[simp] theorem State.emit_draws (e : HostEvent) : (s.emit e).draws = s.draws := rfl

/-! ### `emitStep` -/

@[simp] theorem State.emitStep_cfg (r : ControllerStep) : (s.emitStep r).cfg = s.cfg := rfl
@[simp] theorem State.emitStep_out (r : ControllerStep) : (s.emitStep r).out = s.out := rfl
@[simp] theorem State.emitStep_err (r : ControllerStep) : (s.emitStep r).err = s.err := rfl
@[simp] theorem State.emitStep_chip (r : ControllerStep) : (s.emitStep r).chip = s.chip := rfl
@[simp] theorem State.emitStep_session (r : ControllerStep) : (s.emitStep r).session = s.session := rfl
@[simp] theorem State.emitStep_queue (r : ControllerStep) : (s.emitStep r).queue = s.queue := rfl
@[simp] theorem State.emitStep_job (r : ControllerStep) : (s.emitStep r).job = s.job := rfl
@[simp] theorem State.emitStep_events (r : ControllerStep) : (s.emitStep r).events =
    .step { low := r.newLow, high := r.newHigh } r.direction r.sampleClear (Config.timestamp s.draws) :: s.events :=
    rfl
@[simp] theorem State.emitStep_log (r : ControllerStep) : (s.emitStep r).log = s.log := rfl
@[simp] theorem State.emitStep_schedule (r : ControllerStep) : (s.emitStep r).schedule = s.schedule := rfl
@[simp] theorem State.emitStep_answers (r : ControllerStep) : (s.emitStep r).answers = s.answers := rfl
@[simp] theorem State.emitStep_picks (r : ControllerStep) : (s.emitStep r).picks = s.picks := rfl
@[simp] theorem State.emitStep_interludes (r : ControllerStep) : (s.emitStep r).interludes = s.interludes := rfl
@[simp] theorem State.emitStep_draws (r : ControllerStep) : (s.emitStep r).draws = s.draws + 1 := rfl

/-! ### `adoptWindow` -/

@[simp] theorem State.adoptWindow_cfg (r : ControllerStep) : (s.adoptWindow r).cfg = s.cfg := rfl
@[simp] theorem State.adoptWindow_out (r : ControllerStep) : (s.adoptWindow r).out = s.out := rfl
@[simp] theorem State.adoptWindow_err (r : ControllerStep) : (s.adoptWindow r).err = s.err := rfl
@[simp] theorem State.adoptWindow_chip (r : ControllerStep) : (s.adoptWindow r).chip = s.chip := rfl
@[simp] theorem State.adoptWindow_session (r : ControllerStep) : (s.adoptWindow r).session =
    { s.session with window := some { low := r.newLow, high := r.newHigh } } := rfl
@[simp] theorem State.adoptWindow_queue (r : ControllerStep) : (s.adoptWindow r).queue = s.queue := rfl
@[simp] theorem State.adoptWindow_job (r : ControllerStep) : (s.adoptWindow r).job = s.job := rfl
@[simp] theorem State.adoptWindow_events (r : ControllerStep) : (s.adoptWindow r).events = s.events := rfl
@[simp] theorem State.adoptWindow_log (r : ControllerStep) : (s.adoptWindow r).log = s.log := rfl
@[simp] theorem State.adoptWindow_schedule (r : ControllerStep) : (s.adoptWindow r).schedule = s.schedule := rfl
@[simp] theorem State.adoptWindow_answers (r : ControllerStep) : (s.adoptWindow r).answers = s.answers := rfl
@[simp] theorem State.adoptWindow_picks (r : ControllerStep) : (s.adoptWindow r).picks = s.picks := rfl
@[simp] theorem State.adoptWindow_interludes (r : ControllerStep) : (s.adoptWindow r).interludes = s.interludes := rfl
@[simp] theorem State.adoptWindow_draws (r : ControllerStep) : (s.adoptWindow r).draws = s.draws := rfl

/-! ### `setIrq` -/

@[simp] theorem State.setIrq_cfg (p : Option ServicePhase) : (s.setIrq p).cfg = s.cfg := rfl
@[simp] theorem State.setIrq_out (p : Option ServicePhase) : (s.setIrq p).out = s.out := rfl
@[simp] theorem State.setIrq_err (p : Option ServicePhase) : (s.setIrq p).err = s.err := rfl
@[simp] theorem State.setIrq_chip (p : Option ServicePhase) : (s.setIrq p).chip = s.chip := rfl
@[simp] theorem State.setIrq_session (p : Option ServicePhase) : (s.setIrq p).session =
    { s.session with irq := p } := rfl
@[simp] theorem State.setIrq_queue (p : Option ServicePhase) : (s.setIrq p).queue = s.queue := rfl
@[simp] theorem State.setIrq_job (p : Option ServicePhase) : (s.setIrq p).job = s.job := rfl
@[simp] theorem State.setIrq_events (p : Option ServicePhase) : (s.setIrq p).events = s.events := rfl
@[simp] theorem State.setIrq_log (p : Option ServicePhase) : (s.setIrq p).log = s.log := rfl
@[simp] theorem State.setIrq_schedule (p : Option ServicePhase) : (s.setIrq p).schedule = s.schedule := rfl
@[simp] theorem State.setIrq_answers (p : Option ServicePhase) : (s.setIrq p).answers = s.answers := rfl
@[simp] theorem State.setIrq_picks (p : Option ServicePhase) : (s.setIrq p).picks = s.picks := rfl
@[simp] theorem State.setIrq_interludes (p : Option ServicePhase) : (s.setIrq p).interludes = s.interludes := rfl
@[simp] theorem State.setIrq_draws (p : Option ServicePhase) : (s.setIrq p).draws = s.draws := rfl

/-! ### `setPoll` -/

@[simp] theorem State.setPoll_cfg (p : Option PollPhase) : (s.setPoll p).cfg = s.cfg := rfl
@[simp] theorem State.setPoll_out (p : Option PollPhase) : (s.setPoll p).out = s.out := rfl
@[simp] theorem State.setPoll_err (p : Option PollPhase) : (s.setPoll p).err = s.err := rfl
@[simp] theorem State.setPoll_chip (p : Option PollPhase) : (s.setPoll p).chip = s.chip := rfl
@[simp] theorem State.setPoll_session (p : Option PollPhase) : (s.setPoll p).session =
    { s.session with poll := p } := rfl
@[simp] theorem State.setPoll_queue (p : Option PollPhase) : (s.setPoll p).queue = s.queue := rfl
@[simp] theorem State.setPoll_job (p : Option PollPhase) : (s.setPoll p).job = s.job := rfl
@[simp] theorem State.setPoll_events (p : Option PollPhase) : (s.setPoll p).events = s.events := rfl
@[simp] theorem State.setPoll_log (p : Option PollPhase) : (s.setPoll p).log = s.log := rfl
@[simp] theorem State.setPoll_schedule (p : Option PollPhase) : (s.setPoll p).schedule = s.schedule := rfl
@[simp] theorem State.setPoll_answers (p : Option PollPhase) : (s.setPoll p).answers = s.answers := rfl
@[simp] theorem State.setPoll_picks (p : Option PollPhase) : (s.setPoll p).picks = s.picks := rfl
@[simp] theorem State.setPoll_interludes (p : Option PollPhase) : (s.setPoll p).interludes = s.interludes := rfl
@[simp] theorem State.setPoll_draws (p : Option PollPhase) : (s.setPoll p).draws = s.draws := rfl

/-! ### `setLed` -/

@[simp] theorem State.setLed_cfg (lit : Bool) : (s.setLed lit).cfg = s.cfg := rfl
@[simp] theorem State.setLed_out (lit : Bool) : (s.setLed lit).out = s.out := rfl
@[simp] theorem State.setLed_err (lit : Bool) : (s.setLed lit).err = s.err := rfl
@[simp] theorem State.setLed_chip (lit : Bool) : (s.setLed lit).chip = s.chip := rfl
@[simp] theorem State.setLed_session (lit : Bool) : (s.setLed lit).session =
    { s.session with led := s.session.led.map fun _ => lit } := rfl
@[simp] theorem State.setLed_queue (lit : Bool) : (s.setLed lit).queue = s.queue := rfl
@[simp] theorem State.setLed_job (lit : Bool) : (s.setLed lit).job = s.job := rfl
@[simp] theorem State.setLed_events (lit : Bool) : (s.setLed lit).events = s.events := rfl
@[simp] theorem State.setLed_log (lit : Bool) : (s.setLed lit).log = s.log := rfl
@[simp] theorem State.setLed_schedule (lit : Bool) : (s.setLed lit).schedule = s.schedule := rfl
@[simp] theorem State.setLed_answers (lit : Bool) : (s.setLed lit).answers = s.answers := rfl
@[simp] theorem State.setLed_picks (lit : Bool) : (s.setLed lit).picks = s.picks := rfl
@[simp] theorem State.setLed_interludes (lit : Bool) : (s.setLed lit).interludes = s.interludes := rfl
@[simp] theorem State.setLed_draws (lit : Bool) : (s.setLed lit).draws = s.draws := rfl

/-! ### `setApplying` -/

@[simp] theorem State.setApplying_cfg (p : ApplyPhase) : (s.setApplying p).cfg = s.cfg := rfl
@[simp] theorem State.setApplying_out (p : ApplyPhase) : (s.setApplying p).out = s.out := rfl
@[simp] theorem State.setApplying_err (p : ApplyPhase) : (s.setApplying p).err = s.err := rfl
@[simp] theorem State.setApplying_chip (p : ApplyPhase) : (s.setApplying p).chip = s.chip := rfl
@[simp] theorem State.setApplying_session (p : ApplyPhase) : (s.setApplying p).session =
    { s.session with applying := some p } := rfl
@[simp] theorem State.setApplying_queue (p : ApplyPhase) : (s.setApplying p).queue = s.queue := rfl
@[simp] theorem State.setApplying_job (p : ApplyPhase) : (s.setApplying p).job = s.job := rfl
@[simp] theorem State.setApplying_events (p : ApplyPhase) : (s.setApplying p).events = s.events := rfl
@[simp] theorem State.setApplying_log (p : ApplyPhase) : (s.setApplying p).log = s.log := rfl
@[simp] theorem State.setApplying_schedule (p : ApplyPhase) : (s.setApplying p).schedule = s.schedule := rfl
@[simp] theorem State.setApplying_answers (p : ApplyPhase) : (s.setApplying p).answers = s.answers := rfl
@[simp] theorem State.setApplying_picks (p : ApplyPhase) : (s.setApplying p).picks = s.picks := rfl
@[simp] theorem State.setApplying_interludes (p : ApplyPhase) : (s.setApplying p).interludes = s.interludes := rfl
@[simp] theorem State.setApplying_draws (p : ApplyPhase) : (s.setApplying p).draws = s.draws := rfl

/-! ### `enterRunning` -/

@[simp] theorem State.enterRunning_cfg (hc : HostConfig) : (s.enterRunning hc).cfg = s.cfg := rfl
@[simp] theorem State.enterRunning_out (hc : HostConfig) : (s.enterRunning hc).out = s.out := rfl
@[simp] theorem State.enterRunning_err (hc : HostConfig) : (s.enterRunning hc).err = s.err := rfl
@[simp] theorem State.enterRunning_chip (hc : HostConfig) : (s.enterRunning hc).chip = s.chip := rfl
@[simp] theorem State.enterRunning_session (hc : HostConfig) : (s.enterRunning hc).session =
    { s.session with
        lifecycle := .running, applying := none, profile := some (mergeProfile hc.profile),
        window := some (mergeProfile hc.profile).threshold } := rfl
@[simp] theorem State.enterRunning_queue (hc : HostConfig) : (s.enterRunning hc).queue = s.queue := rfl
@[simp] theorem State.enterRunning_job (hc : HostConfig) : (s.enterRunning hc).job = s.job := rfl
@[simp] theorem State.enterRunning_events (hc : HostConfig) : (s.enterRunning hc).events = s.events := rfl
@[simp] theorem State.enterRunning_log (hc : HostConfig) : (s.enterRunning hc).log = s.log := rfl
@[simp] theorem State.enterRunning_schedule (hc : HostConfig) : (s.enterRunning hc).schedule = s.schedule := rfl
@[simp] theorem State.enterRunning_answers (hc : HostConfig) : (s.enterRunning hc).answers = s.answers := rfl
@[simp] theorem State.enterRunning_picks (hc : HostConfig) : (s.enterRunning hc).picks = s.picks := rfl
@[simp] theorem State.enterRunning_interludes (hc : HostConfig) : (s.enterRunning hc).interludes = s.interludes := rfl
@[simp] theorem State.enterRunning_draws (hc : HostConfig) : (s.enterRunning hc).draws = s.draws := rfl

/-! ### `destroySession` -/

@[simp] theorem State.destroySession_cfg : s.destroySession.cfg = s.cfg := rfl
@[simp] theorem State.destroySession_out : s.destroySession.out = s.out := rfl
@[simp] theorem State.destroySession_err : s.destroySession.err = s.err := rfl
@[simp] theorem State.destroySession_chip : s.destroySession.chip = s.chip := rfl
@[simp] theorem State.destroySession_session : s.destroySession.session =
    { s.session with
        lifecycle := .stopped, profile := none, window := none, bus := false, led := none, line := false,
        pollTimer := none, retryTimer := none, watcher := false, edge := false } := rfl
@[simp] theorem State.destroySession_queue : s.destroySession.queue = s.queue := rfl
@[simp] theorem State.destroySession_job : s.destroySession.job = s.job := rfl
@[simp] theorem State.destroySession_events : s.destroySession.events = s.events := rfl
@[simp] theorem State.destroySession_log : s.destroySession.log = s.log := rfl
@[simp] theorem State.destroySession_schedule : s.destroySession.schedule = s.schedule := rfl
@[simp] theorem State.destroySession_answers : s.destroySession.answers = s.answers := rfl
@[simp] theorem State.destroySession_picks : s.destroySession.picks = s.picks := rfl
@[simp] theorem State.destroySession_interludes : s.destroySession.interludes = s.interludes := rfl
@[simp] theorem State.destroySession_draws : s.destroySession.draws = s.draws := rfl

/-! ### `forgetRun` -/

@[simp] theorem State.forgetRun_cfg : s.forgetRun.cfg = s.cfg := rfl
@[simp] theorem State.forgetRun_out : s.forgetRun.out = s.out := rfl
@[simp] theorem State.forgetRun_err : s.forgetRun.err = s.err := rfl
@[simp] theorem State.forgetRun_chip : s.forgetRun.chip =
    { s.chip with run := 0 } := rfl
@[simp] theorem State.forgetRun_session : s.forgetRun.session = s.session := rfl
@[simp] theorem State.forgetRun_queue : s.forgetRun.queue = s.queue := rfl
@[simp] theorem State.forgetRun_job : s.forgetRun.job = s.job := rfl
@[simp] theorem State.forgetRun_events : s.forgetRun.events = s.events := rfl
@[simp] theorem State.forgetRun_log : s.forgetRun.log = s.log := rfl
@[simp] theorem State.forgetRun_schedule : s.forgetRun.schedule = s.schedule := rfl
@[simp] theorem State.forgetRun_answers : s.forgetRun.answers = s.answers := rfl
@[simp] theorem State.forgetRun_picks : s.forgetRun.picks = s.picks := rfl
@[simp] theorem State.forgetRun_interludes : s.forgetRun.interludes = s.interludes := rfl
@[simp] theorem State.forgetRun_draws : s.forgetRun.draws = s.draws := rfl

/-! ### `setupFailed` -/

@[simp] theorem State.setupFailed_cfg (f : Failure) : (s.setupFailed f).cfg = s.cfg := rfl
@[simp] theorem State.setupFailed_out (f : Failure) : (s.setupFailed f).out = s.out := rfl
@[simp] theorem State.setupFailed_err (f : Failure) : (s.setupFailed f).err = s.err := rfl
@[simp] theorem State.setupFailed_chip (f : Failure) : (s.setupFailed f).chip = s.chip := rfl
@[simp] theorem State.setupFailed_session (f : Failure) : (s.setupFailed f).session =
    { s.session with
        lifecycle := .retryWaiting, bus := false, led := none, line := false, applying := none,
        retryTimer := some Config.retryInterval } := rfl
@[simp] theorem State.setupFailed_queue (f : Failure) : (s.setupFailed f).queue = s.queue := rfl
@[simp] theorem State.setupFailed_job (f : Failure) : (s.setupFailed f).job = s.job := rfl
@[simp] theorem State.setupFailed_events (f : Failure) : (s.setupFailed f).events = s.events := rfl
@[simp] theorem State.setupFailed_log (f : Failure) : (s.setupFailed f).log = (.setup, f) :: s.log := rfl
@[simp] theorem State.setupFailed_schedule (f : Failure) : (s.setupFailed f).schedule = s.schedule := rfl
@[simp] theorem State.setupFailed_answers (f : Failure) : (s.setupFailed f).answers = s.answers := rfl
@[simp] theorem State.setupFailed_picks (f : Failure) : (s.setupFailed f).picks = s.picks := rfl
@[simp] theorem State.setupFailed_interludes (f : Failure) : (s.setupFailed f).interludes = s.interludes := rfl
@[simp] theorem State.setupFailed_draws (f : Failure) : (s.setupFailed f).draws = s.draws := rfl

/-! ### What the registers show after an update that leaves them alone -/

@[simp] theorem State.accept_regByte (r : Result) (x : Nat) : (s.accept r).regByte x = s.regByte x := rfl
@[simp] theorem State.accept_enableNow (r : Result) : (s.accept r).enableNow = s.enableNow := rfl
@[simp] theorem State.accept_bandNow (r : Result) : (s.accept r).bandNow = s.bandNow := rfl
@[simp] theorem State.accept_lineLevel (r : Result) : (s.accept r).lineLevel = s.lineLevel := rfl
@[simp] theorem State.raise_regByte (f : Failure) (x : Nat) : (s.raise f).regByte x = s.regByte x := rfl
@[simp] theorem State.raise_enableNow (f : Failure) : (s.raise f).enableNow = s.enableNow := rfl
@[simp] theorem State.raise_bandNow (f : Failure) : (s.raise f).bandNow = s.bandNow := rfl
@[simp] theorem State.raise_lineLevel (f : Failure) : (s.raise f).lineLevel = s.lineLevel := rfl
@[simp] theorem State.answered_regByte (x : Nat) : s.answered.regByte x = s.regByte x := rfl
@[simp] theorem State.answered_enableNow : s.answered.enableNow = s.enableNow := rfl
@[simp] theorem State.answered_bandNow : s.answered.bandNow = s.bandNow := rfl
@[simp] theorem State.answered_lineLevel : s.answered.lineLevel = s.lineLevel := rfl
@[simp] theorem State.picked_regByte (x : Nat) : s.picked.regByte x = s.regByte x := rfl
@[simp] theorem State.picked_enableNow : s.picked.enableNow = s.enableNow := rfl
@[simp] theorem State.picked_bandNow : s.picked.bandNow = s.bandNow := rfl
@[simp] theorem State.picked_lineLevel : s.picked.lineLevel = s.lineLevel := rfl
@[simp] theorem State.clearLatch_regByte (x : Nat) : s.clearLatch.regByte x = s.regByte x := rfl
@[simp] theorem State.clearLatch_enableNow : s.clearLatch.enableNow = s.enableNow := rfl
@[simp] theorem State.clearLatch_bandNow : s.clearLatch.bandNow = s.bandNow := rfl
@[simp] theorem State.setEdge_regByte (e : Bool) (x : Nat) : (s.setEdge e).regByte x = s.regByte x := rfl
@[simp] theorem State.setEdge_enableNow (e : Bool) : (s.setEdge e).enableNow = s.enableNow := rfl
@[simp] theorem State.setEdge_bandNow (e : Bool) : (s.setEdge e).bandNow = s.bandNow := rfl
@[simp] theorem State.setEdge_statusByte (e : Bool) : (s.setEdge e).statusByte = s.statusByte := rfl
@[simp] theorem State.setEdge_lineLevel (e : Bool) : (s.setEdge e).lineLevel = s.lineLevel := rfl
@[simp] theorem State.setEdge_violationStands (e : Bool) : (s.setEdge e).violationStands = s.violationStands := rfl
@[simp] theorem State.enterHandler_regByte (x : Nat) : s.enterHandler.regByte x = s.regByte x := rfl
@[simp] theorem State.enterHandler_enableNow : s.enterHandler.enableNow = s.enableNow := rfl
@[simp] theorem State.enterHandler_bandNow : s.enterHandler.bandNow = s.bandNow := rfl
@[simp] theorem State.enterHandler_lineLevel : s.enterHandler.lineLevel = s.lineLevel := rfl
@[simp] theorem State.leaveHandler_regByte (x : Nat) : s.leaveHandler.regByte x = s.regByte x := rfl
@[simp] theorem State.leaveHandler_enableNow : s.leaveHandler.enableNow = s.enableNow := rfl
@[simp] theorem State.leaveHandler_bandNow : s.leaveHandler.bandNow = s.bandNow := rfl
@[simp] theorem State.leaveHandler_lineLevel : s.leaveHandler.lineLevel = s.lineLevel := rfl
@[simp] theorem State.logged_regByte (who : Activity) (f : Failure) (x : Nat) : (s.logged who f).regByte x = s.regByte x := rfl
@[simp] theorem State.logged_enableNow (who : Activity) (f : Failure) : (s.logged who f).enableNow = s.enableNow := rfl
@[simp] theorem State.logged_bandNow (who : Activity) (f : Failure) : (s.logged who f).bandNow = s.bandNow := rfl
@[simp] theorem State.logged_lineLevel (who : Activity) (f : Failure) : (s.logged who f).lineLevel = s.lineLevel := rfl
@[simp] theorem State.emit_regByte (e : HostEvent) (x : Nat) : (s.emit e).regByte x = s.regByte x := rfl
@[simp] theorem State.emit_enableNow (e : HostEvent) : (s.emit e).enableNow = s.enableNow := rfl
@[simp] theorem State.emit_bandNow (e : HostEvent) : (s.emit e).bandNow = s.bandNow := rfl
@[simp] theorem State.emit_lineLevel (e : HostEvent) : (s.emit e).lineLevel = s.lineLevel := rfl
@[simp] theorem State.emitStep_regByte (r : ControllerStep) (x : Nat) : (s.emitStep r).regByte x = s.regByte x := rfl
@[simp] theorem State.emitStep_enableNow (r : ControllerStep) : (s.emitStep r).enableNow = s.enableNow := rfl
@[simp] theorem State.emitStep_bandNow (r : ControllerStep) : (s.emitStep r).bandNow = s.bandNow := rfl
@[simp] theorem State.emitStep_lineLevel (r : ControllerStep) : (s.emitStep r).lineLevel = s.lineLevel := rfl
@[simp] theorem State.adoptWindow_regByte (r : ControllerStep) (x : Nat) : (s.adoptWindow r).regByte x = s.regByte x := rfl
@[simp] theorem State.adoptWindow_enableNow (r : ControllerStep) : (s.adoptWindow r).enableNow = s.enableNow := rfl
@[simp] theorem State.adoptWindow_bandNow (r : ControllerStep) : (s.adoptWindow r).bandNow = s.bandNow := rfl
@[simp] theorem State.adoptWindow_lineLevel (r : ControllerStep) : (s.adoptWindow r).lineLevel = s.lineLevel := rfl
@[simp] theorem State.setIrq_regByte (p : Option ServicePhase) (x : Nat) : (s.setIrq p).regByte x = s.regByte x := rfl
@[simp] theorem State.setIrq_enableNow (p : Option ServicePhase) : (s.setIrq p).enableNow = s.enableNow := rfl
@[simp] theorem State.setIrq_bandNow (p : Option ServicePhase) : (s.setIrq p).bandNow = s.bandNow := rfl
@[simp] theorem State.setIrq_lineLevel (p : Option ServicePhase) : (s.setIrq p).lineLevel = s.lineLevel := rfl
@[simp] theorem State.setPoll_regByte (p : Option PollPhase) (x : Nat) : (s.setPoll p).regByte x = s.regByte x := rfl
@[simp] theorem State.setPoll_enableNow (p : Option PollPhase) : (s.setPoll p).enableNow = s.enableNow := rfl
@[simp] theorem State.setPoll_bandNow (p : Option PollPhase) : (s.setPoll p).bandNow = s.bandNow := rfl
@[simp] theorem State.setPoll_lineLevel (p : Option PollPhase) : (s.setPoll p).lineLevel = s.lineLevel := rfl
@[simp] theorem State.setLed_regByte (lit : Bool) (x : Nat) : (s.setLed lit).regByte x = s.regByte x := rfl
@[simp] theorem State.setLed_enableNow (lit : Bool) : (s.setLed lit).enableNow = s.enableNow := rfl
@[simp] theorem State.setLed_bandNow (lit : Bool) : (s.setLed lit).bandNow = s.bandNow := rfl
@[simp] theorem State.setLed_lineLevel (lit : Bool) : (s.setLed lit).lineLevel = s.lineLevel := rfl
@[simp] theorem State.setupFailed_regByte (f : Failure) (x : Nat) : (s.setupFailed f).regByte x = s.regByte x := rfl
@[simp] theorem State.setupFailed_enableNow (f : Failure) : (s.setupFailed f).enableNow = s.enableNow := rfl
@[simp] theorem State.setupFailed_bandNow (f : Failure) : (s.setupFailed f).bandNow = s.bandNow := rfl
@[simp] theorem State.setupFailed_lineLevel (f : Failure) : (s.setupFailed f).lineLevel = s.lineLevel := rfl
@[simp] theorem State.enterRunning_regByte (hc : HostConfig) (x : Nat) : (s.enterRunning hc).regByte x = s.regByte x := rfl
@[simp] theorem State.enterRunning_enableNow (hc : HostConfig) : (s.enterRunning hc).enableNow = s.enableNow := rfl
@[simp] theorem State.enterRunning_bandNow (hc : HostConfig) : (s.enterRunning hc).bandNow = s.bandNow := rfl
@[simp] theorem State.enterRunning_lineLevel (hc : HostConfig) : (s.enterRunning hc).lineLevel = s.lineLevel := rfl
@[simp] theorem State.setApplying_regByte (p : ApplyPhase) (x : Nat) : (s.setApplying p).regByte x = s.regByte x := rfl
@[simp] theorem State.setApplying_enableNow (p : ApplyPhase) : (s.setApplying p).enableNow = s.enableNow := rfl
@[simp] theorem State.setApplying_bandNow (p : ApplyPhase) : (s.setApplying p).bandNow = s.bandNow := rfl
@[simp] theorem State.setApplying_lineLevel (p : ApplyPhase) : (s.setApplying p).lineLevel = s.lineLevel := rfl
@[simp] theorem State.destroySession_regByte (x : Nat) : s.destroySession.regByte x = s.regByte x := rfl
@[simp] theorem State.destroySession_enableNow : s.destroySession.enableNow = s.enableNow := rfl
@[simp] theorem State.destroySession_bandNow : s.destroySession.bandNow = s.bandNow := rfl
@[simp] theorem State.destroySession_lineLevel : s.destroySession.lineLevel = s.lineLevel := rfl
@[simp] theorem State.forgetRun_regByte (x : Nat) : s.forgetRun.regByte x = s.regByte x := rfl
@[simp] theorem State.forgetRun_enableNow : s.forgetRun.enableNow = s.enableNow := rfl
@[simp] theorem State.forgetRun_bandNow : s.forgetRun.bandNow = s.bandNow := rfl
@[simp] theorem State.forgetRun_lineLevel : s.forgetRun.lineLevel = s.lineLevel := rfl

/-! ### `compare` -/

@[simp] theorem State.compare_cfg (clear : Word) (m : Bool) : (s.compare clear m).cfg = s.cfg := rfl
@[simp] theorem State.compare_out (clear : Word) (m : Bool) : (s.compare clear m).out = s.out := rfl
@[simp] theorem State.compare_err (clear : Word) (m : Bool) : (s.compare clear m).err = s.err := rfl
@[simp] theorem State.compare_session (clear : Word) (m : Bool) : (s.compare clear m).session = s.session := rfl
@[simp] theorem State.compare_queue (clear : Word) (m : Bool) : (s.compare clear m).queue = s.queue := rfl
@[simp] theorem State.compare_job (clear : Word) (m : Bool) : (s.compare clear m).job = s.job := rfl
@[simp] theorem State.compare_events (clear : Word) (m : Bool) : (s.compare clear m).events = s.events := rfl
@[simp] theorem State.compare_log (clear : Word) (m : Bool) : (s.compare clear m).log = s.log := rfl
@[simp] theorem State.compare_schedule (clear : Word) (m : Bool) : (s.compare clear m).schedule = s.schedule := rfl
@[simp] theorem State.compare_answers (clear : Word) (m : Bool) : (s.compare clear m).answers = s.answers := rfl
@[simp] theorem State.compare_picks (clear : Word) (m : Bool) : (s.compare clear m).picks = s.picks := rfl
@[simp] theorem State.compare_interludes (clear : Word) (m : Bool) : (s.compare clear m).interludes = s.interludes := rfl
@[simp] theorem State.compare_draws (clear : Word) (m : Bool) : (s.compare clear m).draws = s.draws := rfl
@[simp] theorem State.compare_reg (clear : Word) (m : Bool) : (s.compare clear m).chip.reg = s.chip.reg := rfl
@[simp] theorem State.compare_regByte (clear : Word) (m : Bool) (x : Nat) :
    (s.compare clear m).regByte x = s.regByte x := rfl
@[simp] theorem State.compare_enableNow (clear : Word) (m : Bool) :
    (s.compare clear m).enableNow = s.enableNow := rfl

/-! ### What the registers show rests on -/

variable {s} in
/-- A register's byte is the register file's and the parameters' alone. -/
theorem State.regByte_congr {t : State} (hc : t.cfg = s.cfg) (hr : t.chip.reg = s.chip.reg) (x : Nat) :
    t.regByte x = s.regByte x := by
  simp only [State.regByte, hc, hr]

variable {s} in
/-- So is the window the threshold registers hold. -/
theorem State.bandNow_congr {t : State} (hc : t.cfg = s.cfg) (hr : t.chip.reg = s.chip.reg) :
    t.bandNow = s.bandNow := by
  simp only [State.bandNow, State.regByte_congr hc hr, hc]

variable {s} in
/-- So are the flags ENABLE holds. -/
theorem State.enableNow_congr {t : State} (hc : t.cfg = s.cfg) (hr : t.chip.reg = s.chip.reg) :
    t.enableNow = s.enableNow := by
  simp only [State.enableNow, State.regByte_congr hc hr, hc]

end Sys2Proof.Machine
end

