-- ==== Sys2Proof/Laws/Memory.lean ====
section
/-! SUPPORT. The laws of memory: what a read finds after a write, and that every memory operation keeps the canonical
form. -/

namespace Sys2Proof.Machine

variable {d : List Byte} {m : List Host.Cell} {a x : Nat} {b : Byte}

theorem memRead_of_not_listed (h : a ∉ m.map Prod.fst) : memRead d m a = resetByte d a := by
  induction m with
  | nil => rfl
  | cons cell rest ih =>
    simp only [List.map_cons, List.mem_cons, not_or] at h
    simp only [memRead, if_neg (Ne.symm h.1), ih h.2]

theorem memErase_not_listed : a ∉ (memErase m a).map Prod.fst := by
  simp [memErase]

theorem memRead_erase : memRead d (memErase m a) x = if x = a then resetByte d x else memRead d m x := by
  split
  next h => exact memRead_of_not_listed (h ▸ memErase_not_listed)
  next h =>
    induction m with
    | nil => rfl
    | cons cell rest ih =>
      obtain ⟨k, v⟩ := cell
      by_cases hk : k = a
      · have hkx : ¬ k = x := fun e => h (e.symm.trans hk)
        have he : memErase ((k, v) :: rest) a = memErase rest a := by simp [memErase, hk]
        rw [he, ih, memRead, if_neg hkx]
      · have he : memErase ((k, v) :: rest) a = (k, v) :: memErase rest a := by simp [memErase, hk]
        rw [he, memRead, memRead, ih]

theorem memRead_insert (h : a ∉ m.map Prod.fst) :
    memRead d (memInsert m a b) x = if x = a then b else memRead d m x := by
  induction m with
  | nil => simp [memInsert, memRead, eq_comm]
  | cons cell rest ih =>
    simp only [List.map_cons, List.mem_cons, not_or] at h
    unfold memInsert
    split
    · simp [memRead, eq_comm]
    · rw [memRead, ih h.2, memRead]
      by_cases hx : x = a
      · subst hx; simp [Ne.symm h.1]
      · simp [hx]

/-- Reading after a write: the written address gives the byte written, every other address is left alone. -/
theorem memRead_write : memRead d (memWrite d m a b) x = if x = a then b else memRead d m x := by
  unfold memWrite
  split
  next h =>
    rw [memRead_erase]
    split
    next hx => rw [h, hx]
    next => rfl
  next => rw [memRead_insert memErase_not_listed, memRead_erase]; split <;> rfl

theorem memWf_iff : memWf d m = true ↔
    (m.map Prod.fst).Pairwise (· < ·) ∧ ∀ cell ∈ m, cell.1 < 32 ∧ cell.2 ≠ resetByte d cell.1 := by
  simp [memWf]

theorem memErase_wf (h : memWf d m = true) : memWf d (memErase m a) = true := by
  rw [memWf_iff] at h ⊢
  exact ⟨h.1.sublist (List.filter_sublist.map _), fun c hc => h.2 c (List.mem_of_mem_filter hc)⟩

theorem mem_memInsert {cell : Host.Cell} (h : cell ∈ memInsert m a b) : cell = (a, b) ∨ cell ∈ m := by
  induction m with
  | nil => simpa [memInsert] using h
  | cons c rest ih =>
    unfold memInsert at h
    split at h
    · simpa using h
    · rcases List.mem_cons.mp h with h | h
      · exact .inr (h ▸ List.mem_cons_self)
      · exact (ih h).imp id (List.mem_cons_of_mem _)

theorem memInsert_wf (h : memWf d m = true) (hn : a ∉ m.map Prod.fst) (ha : a < 32) (hb : b ≠ resetByte d a) :
    memWf d (memInsert m a b) = true := by
  rw [memWf_iff] at h ⊢
  refine ⟨?_, fun c hc => ?_⟩
  · have hp := h.1
    clear h
    induction m with
    | nil => simp [memInsert]
    | cons c rest ih =>
      simp only [List.map_cons, List.mem_cons, not_or] at hn
      rw [List.map_cons, List.pairwise_cons] at hp
      unfold memInsert
      split
      next hlt =>
        simp only [List.map_cons, List.pairwise_cons, List.mem_cons]
        refine ⟨?_, hp⟩
        rintro y (rfl | hy)
        · exact hlt
        · exact hlt.trans (hp.1 y hy)
      next hge =>
        rw [List.map_cons, List.pairwise_cons]
        refine ⟨fun y hy => ?_, ih hn.2 hp.2⟩
        obtain ⟨c', hc', rfl⟩ := List.mem_map.mp hy
        rcases mem_memInsert hc' with rfl | hc'
        · exact lt_of_le_of_ne (not_lt.mp hge) (Ne.symm hn.1)
        · exact hp.1 _ (List.mem_map_of_mem hc')
  · rcases mem_memInsert hc with rfl | hc
    · exact ⟨ha, hb⟩
    · exact h.2 c hc

/-- A write inside the register space keeps the canonical form. -/
theorem memWrite_wf (h : memWf d m = true) (ha : a < 32) : memWf d (memWrite d m a b) = true := by
  unfold memWrite
  split
  next => exact memErase_wf h
  next hb => exact memInsert_wf (memErase_wf h) memErase_not_listed ha hb

/-- The reset memory lists nothing and is in canonical form. -/
theorem reset_memWf : memWf State.reset.cfg.resetReg State.reset.chip.reg = true := rfl

end Sys2Proof.Machine
end

