-- ==== Sys2Proof/Laws/Codec.lean ====
section
/-! SUPPORT. The laws of the codec's pieces: masks, byte order, rounding, counts, fields, the command byte. -/

namespace Sys2Proof.Machine

/-! ### Masks -/

theorem isOneBit_iff {m : Byte} : isOneBit m = true ↔ ∃ i < 8, m = BitVec.twoPow 8 i := by
  simp [isOneBit]

theorem isOneBit_ne_zero {m : Byte} (h : isOneBit m = true) : m ≠ 0 := by
  revert m; decide

theorem isOneBit_disjoint {m n : Byte} (hm : isOneBit m = true) (hn : isOneBit n = true) (h : m ≠ n) :
    m &&& n = 0 := by
  obtain ⟨i, hi, rfl⟩ := isOneBit_iff.mp hm
  obtain ⟨j, hj, rfl⟩ := isOneBit_iff.mp hn
  interval_cases i <;> interval_cases j <;> first | rfl | exact absurd rfl h

theorem testMask_or (x y m : Byte) : testMask (x ||| y) m = (testMask x m || testMask y m) := by
  have h : (x ||| y) &&& m = (x &&& m) ||| (y &&& m) := by ext i; simp; grind
  rw [testMask, h, testMask, testMask, Bool.eq_iff_iff]
  simp only [bne_iff_ne, Bool.or_eq_true, ne_eq]
  rw [← not_and_or, not_iff_not]
  exact BitVec.or_eq_zero_iff

@[simp] theorem testMask_zero (m : Byte) : testMask 0 m = false := by simp [testMask]

theorem testMask_maskIf_self {m : Byte} (h : m ≠ 0) (f : Bool) : testMask (maskIf f m) m = f := by
  cases f
  · simp [testMask, maskIf]
  · simpa [testMask, maskIf] using h

theorem testMask_maskIf_disjoint {m n : Byte} (h : m &&& n = 0) (f : Bool) : testMask (maskIf f m) n = false := by
  cases f <;> simp [testMask, maskIf, h]

/-! ### Byte order -/

theorem le16_toNat (lo hi : Byte) : (le16 lo hi).toNat = hi.toNat * 256 + lo.toNat := by
  have := lo.isLt
  have := hi.isLt
  rw [le16, BitVec.toNat_ofNat]
  omega

@[simp] theorem lo8_le16 (lo hi : Byte) : lo8 (le16 lo hi) = lo := by
  have := lo.isLt
  apply BitVec.eq_of_toNat_eq
  rw [lo8, BitVec.toNat_ofNat, le16_toNat]
  omega

@[simp] theorem hi8_le16 (lo hi : Byte) : hi8 (le16 lo hi) = hi := by
  have := lo.isLt
  have := hi.isLt
  apply BitVec.eq_of_toNat_eq
  rw [hi8, BitVec.toNat_ofNat, le16_toNat]
  omega

@[simp] theorem le16_lo8_hi8 (v : Word) : le16 (lo8 v) (hi8 v) = v := by
  have := v.isLt
  apply BitVec.eq_of_toNat_eq
  rw [le16_toNat, lo8, hi8, BitVec.toNat_ofNat, BitVec.toNat_ofNat]
  omega

/-! ### Rounding -/

theorem floorQ_eq (q : Q) : floorQ q = ⌊q⌋ := Rat.floor_def'.symm

theorem truncQ_of_nonneg {q : Q} (h : 0 ≤ q) : truncQ q = ⌊q⌋ := by
  have hn : 0 ≤ q.num := Rat.num_nonneg.mpr h
  rw [← floorQ_eq, truncQ, floorQ, Int.tdiv_eq_ediv_of_nonneg hn]

theorem truncQ_of_nonpos {q : Q} (h : q ≤ 0) : truncQ q ≤ 0 := by
  have hn : q.num ≤ 0 := Rat.num_nonpos.mpr h
  have hd : (0 : Int) < q.den := by exact_mod_cast q.den_pos
  have := Int.neg_tdiv q.num (q.den : Int)
  have := Int.tdiv_nonneg (a := -q.num) (b := q.den) (by omega) hd.le
  unfold truncQ
  omega

/-! ### Counts -/

theorem byteCount_range (v : Byte) : 1 ≤ byteCount v ∧ byteCount v ≤ 256 := by
  have := v.isLt
  unfold byteCount; omega

theorem byteCount_countByte {n : Int} (h1 : 1 ≤ n) (h2 : n ≤ 256) : byteCount (countByte n) = n := by
  unfold byteCount countByte
  rw [BitVec.toNat_ofInt]
  omega

theorem countByte_byteCount (v : Byte) : countByte (byteCount v) = v := by
  revert v; decide

end Sys2Proof.Machine
end

