-- ==== Sys2Proof/Laws/Params.lean ====
section
/-! SUPPORT. What a well-formed parameter record gives: the constraints of R9 and R20 one by one. -/

namespace Sys2Proof.Machine

/-- The constraints of `cfgWellFormed`, spelled out. -/
structure CfgFacts (c : Cfg) : Prop where
  masks : ∀ m ∈ [c.mPon, c.mAen, c.mWen, c.mAien, c.mWlong, c.mAvalid, c.mAint], isOneBit m = true
  enableMasks : [c.mPon, c.mAen, c.mWen, c.mAien].Nodup
  statusMasks : c.mAvalid ≠ c.mAint
  persField : ∃ i < 5, c.mApers = 0x0F#8 <<< i
  gainField : ∃ i < 7, c.mAgain = 0x03#8 <<< i
  types : [c.tRepeat, c.tAutoinc, c.tSpecial].Nodup
  persLength : c.persCode.length = 16
  persNodup : c.persCode.Nodup
  namedNodup : (namedRegisters c).Nodup
  namedInside : ∀ a ∈ namedRegisters c, a < 32
  span : c.aStatus.toNat = c.aEnable.toNat + 19
  order : [c.aEnable.toNat, c.aAtime.toNat, c.aWtime.toNat, c.aAiltl.toNat, c.aPers.toNat, c.aConfig.toNat,
    c.aControl.toNat, c.aStatus.toNat].Pairwise (· < ·)
  resetLength : c.resetReg.length = 32

theorem cfgWellFormed_iff (c : Cfg) : cfgWellFormed c = true ↔ CfgFacts c := by
  constructor
  · intro h
    simp only [cfgWellFormed, Bool.and_eq_true, beq_iff_eq, bne_iff_ne, decide_eq_true_eq, List.all_eq_true,
      List.any_eq_true, List.mem_range] at h
    obtain ⟨⟨⟨⟨⟨⟨⟨⟨⟨⟨⟨⟨a, b⟩, c⟩, d⟩, e⟩, f⟩, g⟩, h⟩, i⟩, j⟩, k⟩, l⟩, m⟩ := h
    exact ⟨a, b, c, d, e, f, g, h, i, j, k, l, m⟩
  · intro ⟨a, b, c, d, e, f, g, h, i, j, k, l, m⟩
    simp only [cfgWellFormed, Bool.and_eq_true, beq_iff_eq, bne_iff_ne, decide_eq_true_eq, List.all_eq_true,
      List.any_eq_true, List.mem_range]
    exact ⟨⟨⟨⟨⟨⟨⟨⟨⟨⟨⟨⟨a, b⟩, c⟩, d⟩, e⟩, f⟩, g⟩, h⟩, i⟩, j⟩, k⟩, l⟩, m⟩

/-- The default parameters meet every constraint. -/
theorem defaultCfg_wellFormed : cfgWellFormed defaultCfg = true := by decide +kernel

variable {c : Cfg}

/-- The type codes are three different values. -/
theorem CfgFacts.types_ne (h : CfgFacts c) :
    c.tRepeat ≠ c.tAutoinc ∧ c.tRepeat ≠ c.tSpecial ∧ c.tAutoinc ≠ c.tSpecial := by
  have := h.types
  simp only [List.nodup_cons, List.mem_cons, List.not_mem_nil, or_false, not_or, List.nodup_nil, and_true,
    not_false_eq_true] at this
  exact ⟨this.1.1, this.1.2, this.2⟩

/-- The decoder recovers what the encoder wrote, and reserved bits of the byte are 0 (R76). -/
theorem CfgFacts.enableFlags_enableByte (h : CfgFacts c) (f : EnableFlags) : enableFlags c (enableByte c f) = f := by
  have hm := h.masks
  have hd := h.enableMasks
  simp only [List.mem_cons, List.not_mem_nil, or_false, forall_eq_or_imp, forall_eq] at hm
  simp only [List.nodup_cons, List.mem_cons, List.not_mem_nil, or_false, not_or, List.nodup_nil, and_true,
    not_false_eq_true] at hd
  obtain ⟨p, a, w, i, -⟩ := hm
  obtain ⟨⟨pa, pw, pi⟩, ⟨aw, ai⟩, wi⟩ := hd
  simp only [enableFlags, enableByte, testMask_or, testMask_maskIf_self (isOneBit_ne_zero p),
    testMask_maskIf_self (isOneBit_ne_zero a), testMask_maskIf_self (isOneBit_ne_zero w),
    testMask_maskIf_self (isOneBit_ne_zero i), testMask_maskIf_disjoint (isOneBit_disjoint p a pa),
    testMask_maskIf_disjoint (isOneBit_disjoint p w pw), testMask_maskIf_disjoint (isOneBit_disjoint p i pi),
    testMask_maskIf_disjoint (isOneBit_disjoint a w aw), testMask_maskIf_disjoint (isOneBit_disjoint a i ai),
    testMask_maskIf_disjoint (isOneBit_disjoint w i wi),
    testMask_maskIf_disjoint (isOneBit_disjoint a p (Ne.symm pa)),
    testMask_maskIf_disjoint (isOneBit_disjoint w p (Ne.symm pw)),
    testMask_maskIf_disjoint (isOneBit_disjoint i p (Ne.symm pi)),
    testMask_maskIf_disjoint (isOneBit_disjoint w a (Ne.symm aw)),
    testMask_maskIf_disjoint (isOneBit_disjoint i a (Ne.symm ai)),
    testMask_maskIf_disjoint (isOneBit_disjoint i w (Ne.symm wi)), Bool.or_false, Bool.false_or]

/-- A host-written register is no read-only one. -/
theorem CfgFacts.hostWritten_not_readOnly (h : CfgFacts c) {a : Nat} (ha : a ∈ hostWritten c) : a ∉ readOnly c := by
  have := h.namedNodup
  rw [namedRegisters, List.nodup_append] at this
  exact fun hr => this.2.2 a ha a hr rfl

/-- A register the host writes lies in the register space. -/
theorem CfgFacts.hostWritten_lt (h : CfgFacts c) {a : Nat} (ha : a ∈ hostWritten c) : a < 32 :=
  h.namedInside a (List.mem_append_left _ ha)

/-- A register that is read-only to the host lies in the register space. -/
theorem CfgFacts.readOnly_lt (h : CfgFacts c) {a : Nat} (ha : a ∈ readOnly c) : a < 32 :=
  h.namedInside a (List.mem_append_right _ ha)

/-- The field under a persistence mask gives back the code placed in it. -/
theorem CfgFacts.extract_place_pers (h : CfgFacts c) (code : BitVec 4) :
    (extractField c.mApers (placeField c.mApers (code.setWidth 8))).setWidth 4 = code := by
  obtain ⟨i, hi, hm⟩ := h.persField
  rw [hm]
  revert code
  interval_cases i <;> decide

/-- The field under a gain mask gives back the code placed in it. -/
theorem CfgFacts.extract_place_gain (h : CfgFacts c) (code : Byte) (hc : code.toNat < 4) :
    extractField c.mAgain (placeField c.mAgain code) = code := by
  obtain ⟨i, hi, hm⟩ := h.gainField
  rw [hm]
  revert hc
  revert code
  interval_cases i <;> decide +kernel

end Sys2Proof.Machine
end

