-- ==== Sys2Proof/Laws/Bus.lean ====
section
/-! SUPPORT. One lemma per shared operation of the bus that says what it does under well-formed parameters, and the
fields it leaves alone. -/

namespace Sys2Proof.Machine

/-! ### The command byte (R60, R121) -/

@[simp] theorem cmdIndicator_commandByte (a : BitVec 5) (t : BitVec 2) (c : Bool) :
    cmdIndicator (commandByte a t c) = c := by
  revert a t c; decide +kernel

@[simp] theorem cmdType_commandByte (a : BitVec 5) (t : BitVec 2) (c : Bool) : cmdType (commandByte a t c) = t := by
  revert a t c; decide +kernel

@[simp] theorem cmdAddress_commandByte (a : BitVec 5) (t : BitVec 2) (c : Bool) :
    cmdAddress (commandByte a t c) = a := by
  revert a t c; decide +kernel

/-- MKCMD of a 5-bit address and a described type (R118). -/
theorem makeCommand_ok {c : Cfg} (a : BitVec 5) {t : BitVec 2} (ht : describedType c t = true) (i : Option Bool) :
    makeCommand c (some a.toNat) t i = .ok (commandByte a t (i.getD true)) := by
  have := a.isLt
  have h : ¬ ((a.toNat : Int) < 0 ∨ 0x1F < (a.toNat : Int)) := by omega
  have hb : BitVec.ofInt 5 (a.toNat : Int) = a := by
    apply BitVec.eq_of_toNat_eq; rw [BitVec.ofInt_natCast, BitVec.toNat_ofNat]; omega
  simp only [makeCommand, if_neg h, ht, hb, Bool.not_true, Bool.false_eq_true, if_false]

/-! ### Fields a block store leaves alone -/

variable (s : State) (a : Nat) (bs : List Byte)

@[simp] theorem State.regByte_setReg (x : Nat) (b : Byte) :
    (s.setReg a b).regByte x = if x = a then b else s.regByte x := memRead_write

/-- A block store changes only the register file. -/
theorem State.setRegs_eq : ∃ reg, s.setRegs a bs = { s with chip := { s.chip with reg := reg } } := by
  induction bs generalizing s a with
  | nil => exact ⟨_, rfl⟩
  | cons b rest ih =>
    obtain ⟨reg, h⟩ := ih (s.setReg a b) (a + 1)
    exact ⟨reg, by rw [State.setRegs, h]; rfl⟩

/-- A failed block store changes only the register file. -/
theorem State.landRegs_eq (l : List Bool) :
    ∃ reg, s.landRegs a bs l = { s with chip := { s.chip with reg := reg } } := by
  induction bs generalizing s a l with
  | nil => exact ⟨_, rfl⟩
  | cons b rest ih =>
    rw [State.landRegs]
    split
    · obtain ⟨reg, h⟩ := ih (s.setReg a b) (a + 1) l.tail
      exact ⟨reg, by rw [h]; rfl⟩
    · exact ih s (a + 1) l.tail

@[simp] theorem State.setRegs_cfg : (s.setRegs a bs).cfg = s.cfg := by
  obtain ⟨_, h⟩ := s.setRegs_eq a bs; rw [h]

@[simp] theorem State.setRegs_session : (s.setRegs a bs).session = s.session := by
  obtain ⟨_, h⟩ := s.setRegs_eq a bs; rw [h]

@[simp] theorem State.setRegs_job : (s.setRegs a bs).job = s.job := by
  obtain ⟨_, h⟩ := s.setRegs_eq a bs; rw [h]

@[simp] theorem State.setRegs_latch : (s.setRegs a bs).chip.latch = s.chip.latch := by
  obtain ⟨_, h⟩ := s.setRegs_eq a bs; rw [h]

@[simp] theorem State.setRegs_run : (s.setRegs a bs).chip.run = s.chip.run := by
  obtain ⟨_, h⟩ := s.setRegs_eq a bs; rw [h]

@[simp] theorem State.landRegs_cfg (l : List Bool) : (s.landRegs a bs l).cfg = s.cfg := by
  obtain ⟨_, h⟩ := s.landRegs_eq a bs l; rw [h]

@[simp] theorem State.landRegs_session (l : List Bool) : (s.landRegs a bs l).session = s.session := by
  obtain ⟨_, h⟩ := s.landRegs_eq a bs l; rw [h]

@[simp] theorem State.landRegs_job (l : List Bool) : (s.landRegs a bs l).job = s.job := by
  obtain ⟨_, h⟩ := s.landRegs_eq a bs l; rw [h]

@[simp] theorem State.landRegs_latch (l : List Bool) : (s.landRegs a bs l).chip.latch = s.chip.latch := by
  obtain ⟨_, h⟩ := s.landRegs_eq a bs l; rw [h]

/-- What a register reads after a block store (R44, R49): the byte stored there, or what it read before. -/
theorem State.regByte_setRegs (x : Nat) :
    (s.setRegs a bs).regByte x =
      if a ≤ x ∧ x < a + bs.length then bs.getD (x - a) 0 else s.regByte x := by
  induction bs generalizing s a with
  | nil => simp [State.setRegs]
  | cons b rest ih =>
    rw [State.setRegs, ih, List.length_cons]
    by_cases hx : x = a
    · subst hx; simp
    · by_cases h : a + 1 ≤ x ∧ x < a + 1 + rest.length
      · rw [if_pos h, if_pos (by omega), show x - a = (x - (a + 1)) + 1 by omega, List.getD_cons_succ]
      · rw [if_neg h, if_neg (by omega), State.regByte_setReg, if_neg hx]

/-- What a register reads after a failed write (U6): the previous byte, or the one the write had for it; ENABLE keeps
its previous byte. -/
theorem State.regByte_landRegs (l : List Bool) (x : Nat) :
    (s.landRegs a bs l).regByte x = s.regByte x ∨
      (x ≠ s.cfg.aEnable.toNat ∧ a ≤ x ∧ x < a + bs.length ∧ (s.landRegs a bs l).regByte x = bs.getD (x - a) 0) := by
  induction bs generalizing s a l with
  | nil => exact .inl rfl
  | cons b rest ih =>
    rw [State.landRegs, List.length_cons]
    rcases ih (if (l.headD false && a != s.cfg.aEnable.toNat) = true then s.setReg a b else s) (a + 1) l.tail with h | h
    · rw [h]
      split
      next hc =>
        simp only [Bool.and_eq_true, bne_iff_ne] at hc
        rw [State.regByte_setReg]
        split
        next hx => subst hx; exact .inr ⟨hc.2, by omega, by omega, by simp⟩
        next => exact .inl rfl
      next => exact .inl rfl
    · obtain ⟨h1, h2, h3, h4⟩ := h
      refine .inr ⟨?_, by omega, by omega, ?_⟩
      · intro e; apply h1; rw [e]; split <;> rfl
      · rw [h4, show x - a = (x - (a + 1)) + 1 by omega, List.getD_cons_succ]

/-- The window the threshold registers hold once its four bytes are stored (R24, R66). -/
theorem State.bandNow_setRegs (s : State) (b : Band) :
    (s.setRegs s.cfg.aAiltl.toNat (bandBytes b)).bandNow = b := by
  have hl : (bandBytes b).length = 4 := rfl
  simp only [State.bandNow, State.setRegs_cfg, State.regByte_setRegs, hl]
  rw [if_pos (by omega), if_pos (by omega), if_pos (by omega), if_pos (by omega), Nat.sub_self,
    Nat.add_sub_cancel_left, Nat.add_sub_cancel_left, Nat.add_sub_cancel_left]
  simp [bandBytes, wordBytes]

/-! ### The bus primitives -/

variable {s}

/-- An auto-increment read inside the register space (R44). -/
theorem readRegs_autoinc {adr : BitVec 5} {n : Nat} (hn : adr.toNat + n ≤ 32) :
    readRegs adr s.cfg.tAutoinc n s = s.answerRead ((List.range n).map fun i => s.hostByte (adr.toNat + i)) := by
  have ht : describedType s.cfg s.cfg.tAutoinc = true := by simp [describedType]
  simp only [readRegs, makeCommand_ok adr ht, Option.getD_none, Slice.ofExcept, Slice.bind, busRead,
    cmdIndicator_commandByte, cmdType_commandByte, cmdAddress_commandByte, Bool.not_true, Bool.false_eq_true,
    if_false, if_true, if_neg (not_lt.mpr hn)]

/-- A one-byte read (R45, R46). -/
theorem readRegs_repeat (h : CfgFacts s.cfg) (adr : BitVec 5) :
    readRegs adr s.cfg.tRepeat 1 s = s.answerRead [s.hostByte adr.toNat] := by
  have ht : describedType s.cfg s.cfg.tRepeat = true := by simp [describedType]
  simp only [readRegs, makeCommand_ok adr ht, Option.getD_none, Slice.ofExcept, Slice.bind, busRead,
    cmdIndicator_commandByte, cmdType_commandByte, cmdAddress_commandByte, Bool.not_true, Bool.false_eq_true,
    if_false, if_neg h.types_ne.1, if_true]
  rfl

/-- No address of a write is forbidden when each is a host-written register. -/
theorem forbiddenWrite_none {c : Cfg} {n : Nat} (hw : ∀ i < n, a + i ∈ hostWritten c) :
    forbiddenWrite c a n = none := by
  simp only [forbiddenWrite, List.find?_eq_none, List.mem_map, List.mem_range]
  rintro x ⟨i, hi, rfl⟩
  simpa using hw i hi

/-- A write to host-written registers (R44, R45). -/
theorem writeRegs_hostWritten (h : CfgFacts s.cfg) (w : RegWrite)
    (ht : w.type = s.cfg.tAutoinc ∨ w.type = s.cfg.tRepeat ∧ w.bytes.length = 1)
    (hw : ∀ i < w.bytes.length, w.address.toNat + i ∈ hostWritten s.cfg) :
    writeRegs w s = s.answerWrite w.address.toNat w.bytes := by
  have hd : describedType s.cfg w.type = true := by
    rcases ht with ht | ht <;> simp [describedType, ht]
  have hf := forbiddenWrite_none w.address.toNat hw
  simp only [writeRegs, makeCommand_ok w.address hd, Option.getD_none, Slice.ofExcept, Slice.bind, busWrite,
    cmdIndicator_commandByte, cmdType_commandByte, cmdAddress_commandByte, Bool.not_true, Bool.false_eq_true,
    if_false, State.writeFrom, hf]
  rcases ht with ht | ⟨ht, hl⟩
  · have hin : ¬ 32 < w.address.toNat + w.bytes.length := by
      rcases Nat.eq_zero_or_pos w.bytes.length with h0 | h0
      · have := w.address.isLt; omega
      · have := h.hostWritten_lt (hw (w.bytes.length - 1) (by omega)); omega
    simp only [ht, if_true, if_neg hin]
  · simp only [ht, if_neg h.types_ne.1, if_true, hl, Nat.lt_irrefl, if_false]

/-- The clear command reaches the chip as the transport answers (R140). -/
theorem sendClear_eq : sendClear s = s.answerClear := by
  have ht : describedType s.cfg s.cfg.tSpecial = true := by simp [describedType]
  simp only [sendClear, makeCommand_ok s.cfg.fClear ht, Option.getD_none, Slice.ofExcept, Slice.bind, busSpecial,
    cmdIndicator_commandByte, cmdType_commandByte, cmdAddress_commandByte, Bool.not_true, Bool.false_eq_true,
    if_false, ne_eq, not_true_eq_false]

end Sys2Proof.Machine
end

