-- ==== Sys2Proof/Laws/Actions.lean ====
section
/-! SUPPORT. One lemma per action of the Profile Service that says in which states it can end, and two predicates to
carry such facts through `bind`: `Ends` allows a stop, `Answers` excludes it. -/

namespace Sys2Proof.Machine

variable {α β : Type}

/-- Wherever the action hands back a state, `P` holds of it. -/
def Slice.Ends (x : Slice α) (P : State → Prop) : Prop :=
  match x with
  | .ok _ s => P s
  | .fail _ s => P s
  | .fault _ => True
  | .refused _ => True

/-- The action hands back a state, and `P` holds of it. -/
def Slice.Answers (x : Slice α) (P : State → Prop) : Prop :=
  match x with
  | .ok _ s => P s
  | .fail _ s => P s
  | .fault _ => False
  | .refused _ => False

theorem Slice.Ends.imp {x : Slice α} {P Q : State → Prop} (h : x.Ends P) (hpq : ∀ s, P s → Q s) : x.Ends Q := by
  cases x <;> first | exact hpq _ h | trivial

theorem Slice.Answers.imp {x : Slice α} {P Q : State → Prop} (h : x.Answers P) (hpq : ∀ s, P s → Q s) :
    x.Answers Q := by
  cases x <;> first | exact hpq _ h | exact h

theorem Slice.Answers.ends {x : Slice α} {P : State → Prop} (h : x.Answers P) : x.Ends P := by
  cases x <;> first | exact h | trivial

theorem Slice.Ends.bind {x : Slice α} {k : α → State → Slice β} {P : State → Prop} (h : x.Ends P)
    (hk : ∀ a s, P s → (k a s).Ends P) : (x.bind k).Ends P := by
  cases x <;> first | exact hk _ _ h | exact h

theorem Slice.Answers.bind {x : Slice α} {k : α → State → Slice β} {P : State → Prop} (h : x.Answers P)
    (hk : ∀ a s, P s → (k a s).Answers P) : (x.bind k).Answers P := by
  cases x <;> first | exact hk _ _ h | exact h

theorem Slice.ofExcept_answers (x : Except OpError α) {s : State} {P : State → Prop} (h : P s) :
    (Slice.ofExcept x s).Answers P := by
  cases x <;> exact h

/-! ### What the transport's answer makes of a request -/

/-- A read that is answered hands back a prefix of the registers' bytes, or fails; the registers stay. -/
theorem State.answerRead_answers (s : State) (bs : List Byte) : (s.answerRead bs).Answers (· = s.answered) := by
  unfold State.answerRead; split <;> rfl

theorem State.answerRead_ok {s : State} (h : s.answer = .ok) (bs : List Byte) :
    s.answerRead bs = .ok bs s.answered := by
  simp only [State.answerRead, h]

theorem State.answerRead_short {s : State} {n : Nat} (h : s.answer = .short n) (bs : List Byte) :
    s.answerRead bs = .ok (bs.take n) s.answered := by
  simp only [State.answerRead, h]

theorem State.answerRead_fail {s : State} {l : List Bool} (h : s.answer = .fail l) (bs : List Byte) :
    s.answerRead bs = .fail .transport s.answered := by
  simp only [State.answerRead, h]

/-- A write lands whole, or fails and lands in part. -/
theorem State.answerWrite_answers (s : State) (a : Nat) (bs : List Byte) :
    (s.answerWrite a bs).Answers fun t => t = s.answered.setRegs a bs ∨ ∃ l, t = s.answered.landRegs a bs l := by
  unfold State.answerWrite; split
  · exact .inl rfl
  · exact .inl rfl
  · exact .inr ⟨_, rfl⟩

theorem State.answerWrite_ok {s : State} (h : s.answer = .ok) (a : Nat) (bs : List Byte) :
    s.answerWrite a bs = .ok () (s.answered.setRegs a bs) := by
  simp only [State.answerWrite, h]

theorem State.answerWrite_fail {s : State} {l : List Bool} (h : s.answer = .fail l) (a : Nat) (bs : List Byte) :
    s.answerWrite a bs = .fail .transport (s.answered.landRegs a bs l) := by
  simp only [State.answerWrite, h]

/-- The clear reaches the chip, or fails, with or without its effect. -/
theorem State.answerClear_answers (s : State) :
    s.answerClear.Answers fun t => t = s.answered.clearLatch ∨ t = s.answered := by
  unfold State.answerClear; split
  · exact .inl rfl
  · exact .inl rfl
  · show _ ∨ _
    split
    · exact .inl rfl
    · exact .inr rfl

theorem State.answerClear_ok {s : State} (h : s.answer = .ok) : s.answerClear = .ok () s.answered.clearLatch := by
  simp only [State.answerClear, h]

/-! ### The reading actions -/

/-- A snapshot, be it an auto-increment read or a read of one byte, leaves everything but the environment's counters
alone, wherever it ends (R47, R48). -/
theorem readRegs_ends (s : State) (adr : BitVec 5) (ty : BitVec 2) (n : Nat)
    (ht : ty = s.cfg.tAutoinc ∨ ty = s.cfg.tRepeat ∧ n = 1) : (readRegs adr ty n s).Ends (· = s.answered) := by
  have hd : describedType s.cfg ty = true := by rcases ht with ht | ht <;> simp [describedType, ht]
  simp only [readRegs, makeCommand_ok adr hd, Slice.ofExcept, Slice.bind, busRead, cmdType_commandByte]
  split
  · trivial
  · split
    · split
      · trivial
      · exact (s.answerRead_answers _).ends
    next hne =>
      obtain ⟨-, rfl⟩ := ht.resolve_left hne
      split
      · exact (s.answerRead_answers _).ends
      · trivial

theorem rdThresh_ends (s : State) : (rdThresh s).Ends (· = s.answered) :=
  (readRegs_ends s _ _ _ (by simp)).bind fun _ _ ht => (Slice.ofExcept_answers (P := (· = s.answered)) _ ht).ends

theorem rdByte_ends (s : State) (a : BitVec 5) : (rdByte a s).Ends (· = s.answered) :=
  (readRegs_ends s _ _ _ (by simp)).bind fun bs _ ht => by cases bs <;> exact ht

theorem rdId_ends (s : State) : (rdId s).Ends (· = s.answered) := rdByte_ends s _

theorem rdStatus_ends (s : State) : (rdStatus s).Ends (· = s.answered) :=
  (rdByte_ends s _).bind fun _ _ ht => ht

theorem rdData_ends (s : State) : (rdData s).Ends (· = s.answered) :=
  (readRegs_ends s _ _ _ (by simp)).bind fun _ _ ht =>
    (Slice.ofExcept_answers (P := (· = s.answered)) _ ht).ends.bind fun _ _ hu => hu

theorem rdProfile_ends (s : State) : (rdProfile s).Ends (· = s.answered) :=
  (readRegs_ends s _ _ _ (by simp)).bind fun bs _ ht => by
    split
    · exact ht
    · exact (Slice.ofExcept_answers (P := (· = s.answered)) _ ht).ends

/-! ### Where the register groups end -/

variable {s : State}

theorem CfgFacts.threshold_inside {c : Cfg} (h : CfgFacts c) : c.aAiltl.toNat + 4 ≤ 32 := by
  have := h.hostWritten_lt (a := c.aAiltl.toNat + 3) (by simp [hostWritten])
  omega

theorem CfgFacts.data_inside {c : Cfg} (h : CfgFacts c) : c.aCdatal.toNat + 8 ≤ 32 := by
  have := h.readOnly_lt (a := c.aCdatal.toNat + 7) (by simp [readOnly, chipWritten, dataRegisters])
  omega

theorem CfgFacts.block_inside {c : Cfg} (h : CfgFacts c) : c.aEnable.toNat + 20 ≤ 32 := by
  have := h.span
  have := c.aStatus.isLt
  omega

/-! ### The reading actions always answer under well-formed parameters -/

theorem rdThresh_answers (h : CfgFacts s.cfg) : (rdThresh s).Answers (· = s.answered) := by
  rw [rdThresh, readRegs_autoinc h.threshold_inside]
  exact (s.answerRead_answers _).bind fun _ _ ht => Slice.ofExcept_answers _ ht

theorem rdByte_answers (h : CfgFacts s.cfg) (a : BitVec 5) : (rdByte a s).Answers (· = s.answered) := by
  rw [rdByte, readRegs_repeat h]
  exact (s.answerRead_answers _).bind fun bs _ ht => by cases bs <;> exact ht

theorem rdId_answers (h : CfgFacts s.cfg) : (rdId s).Answers (· = s.answered) := rdByte_answers h _

theorem rdStatus_answers (h : CfgFacts s.cfg) : (rdStatus s).Answers (· = s.answered) :=
  (rdByte_answers h _).bind fun _ _ ht => ht

theorem rdData_answers (h : CfgFacts s.cfg) : (rdData s).Answers (· = s.answered) := by
  rw [rdData, readRegs_autoinc h.data_inside]
  exact (s.answerRead_answers _).bind fun _ _ ht =>
    (Slice.ofExcept_answers (P := (· = s.answered)) _ ht).bind fun _ _ hu => hu

theorem rdProfile_answers (h : CfgFacts s.cfg) : (rdProfile s).Answers (· = s.answered) := by
  rw [rdProfile, readRegs_autoinc h.block_inside]
  exact (s.answerRead_answers _).bind fun bs _ ht => by
    split
    · exact ht
    · exact Slice.ofExcept_answers _ ht

/-! ### The writing actions -/

/-- The bytes of a threshold window are four. -/
theorem encodeThreshold_length {low high : Int} {bs : List Byte} (h : encodeThreshold low high = .ok bs) :
    bs.length = 4 := by
  unfold encodeThreshold at h
  split at h
  · simp at h
  · split at h
    · simp at h
    · simp only [Except.ok.injEq] at h; subst h; rfl

/-- The threshold registers are host-written. -/
theorem threshold_hostWritten (c : Cfg) {i : Nat} (hi : i < 4) : c.aAiltl.toNat + i ∈ hostWritten c := by
  interval_cases i <;> simp [hostWritten]

/-- WR_THRESH ends with nothing done, the window stored, or part of it stored. -/
theorem wrThresh_answers (h : CfgFacts s.cfg) (low high : Int) :
    (wrThresh low high s).Answers fun t => t = s ∨ ∃ bs, encodeThreshold low high = .ok bs ∧
      (t = s.answered.setRegs s.cfg.aAiltl.toNat bs ∨ ∃ l, t = s.answered.landRegs s.cfg.aAiltl.toNat bs l) := by
  unfold wrThresh
  cases hb : encodeThreshold low high with
  | error e => exact .inl rfl
  | ok bs =>
    have hl := encodeThreshold_length hb
    have hw := writeRegs_hostWritten h { address := s.cfg.aAiltl, type := s.cfg.tAutoinc, bytes := bs } (.inl rfl)
      (fun i hi => threshold_hostWritten s.cfg (hl ▸ hi))
    simp only [Slice.ofExcept, Slice.bind]
    rw [hw]
    exact (s.answerWrite_answers _ _).imp fun t ht => .inr ⟨bs, rfl, ht⟩

/-- WR_THRESH of a window its encoder takes is one write. -/
theorem wrThresh_eq (h : CfgFacts s.cfg) {low high : Int} {bs : List Byte} (hb : encodeThreshold low high = .ok bs) :
    wrThresh low high s = s.answerWrite s.cfg.aAiltl.toNat bs := by
  have hl := encodeThreshold_length hb
  rw [wrThresh, hb]
  exact writeRegs_hostWritten h { address := s.cfg.aAiltl, type := s.cfg.tAutoinc, bytes := bs } (.inl rfl)
    (fun i hi => threshold_hostWritten s.cfg (hl ▸ hi))

/-- WR_THRESH of a window its encoder refuses touches nothing. -/
theorem wrThresh_error {low high : Int} {e : OpError} (hb : encodeThreshold low high = .error e) :
    wrThresh low high s = .fail (.domain e) s := by
  rw [wrThresh, hb]; rfl

/-- CLR_INT ends with the condition cleared, or failed. -/
theorem clrInt_answers (s : State) : (clrInt s).Answers fun t => t = s.answered.clearLatch ∨ t = s.answered := by
  rw [clrInt, sendClear_eq]
  exact s.answerClear_answers

end Sys2Proof.Machine
end

