-- ==== Sys2Proof/Laws/Jobs.lean ====
section
/-! SUPPORT. The writes of WR_PROFILE: what its encoders give is a sound job, and one write of a sound job is one
answered write. -/

namespace Sys2Proof.Machine

variable {c : Cfg} {s : State} {job : WriteJob}

/-! ### The order of the registers (R20) -/

theorem CfgFacts.order_lt (h : CfgFacts c) :
    c.aEnable.toNat < c.aAtime.toNat ∧ c.aAtime.toNat < c.aWtime.toNat ∧ c.aWtime.toNat < c.aAiltl.toNat
      ∧ c.aAiltl.toNat + 4 ≤ c.aPers.toNat ∧ c.aPers.toNat < c.aConfig.toNat
      ∧ c.aConfig.toNat < c.aControl.toNat ∧ c.aControl.toNat < c.aStatus.toNat := by
  have ho := h.order
  have hn := h.namedNodup
  simp only [List.pairwise_cons, List.mem_cons, List.not_mem_nil, or_false, forall_eq_or_imp, forall_eq] at ho
  rw [namedRegisters, List.nodup_append] at hn
  have hn := hn.1
  simp only [hostWritten, List.nodup_cons, List.mem_cons, List.not_mem_nil, or_false, not_or] at hn
  omega

/-! ### Sound jobs -/

/-- A one-byte write of a host-written register other than ENABLE is a component write. -/
theorem componentOk_single {a : BitVec 5} {b : Byte} (ha : a.toNat ∈ hostWritten c) (he : a.toNat ≠ c.aEnable.toNat) :
    componentOk c { address := a, type := c.tRepeat, bytes := [b] } = true := by
  simp only [componentOk, List.length_singleton, List.range_one, List.all_cons, List.all_nil, Nat.add_zero,
    Bool.and_true, beq_self_eq_true, Bool.or_true, Bool.true_and, Bool.and_eq_true, bne_iff_ne]
  exact ⟨List.contains_iff_mem.mpr ha, he⟩

/-- The write of the threshold window is a component write. -/
theorem componentOk_threshold (h : CfgFacts c) {bs : List Byte} (hl : bs.length = 4) :
    componentOk c { address := c.aAiltl, type := c.tAutoinc, bytes := bs } = true := by
  have := h.order_lt
  simp only [componentOk, hl, beq_self_eq_true, Bool.true_or, Bool.true_and, List.all_eq_true, List.mem_range,
    Bool.and_eq_true, bne_iff_ne]
  exact fun i hi => ⟨List.contains_iff_mem.mpr (threshold_hostWritten c hi), by omega⟩

/-- When every encoder of WR_PROFILE takes its field, the writes are these (R138, R139). -/
theorem encodeProfile_eq {p : Profile} (h : encodeProfile c p = .ok job) :
    ∃ a w l t sp g, encodeAtime p.integrationTimeMs = .ok a ∧ encodeWtime p.waitTimeMs = .ok (w, l) ∧
      encodeThreshold p.threshold.low p.threshold.high = .ok t ∧ encodePers c p.filtering = .ok sp ∧
      encodeGain c p.gain = .ok g ∧
      job.pending =
        [{ address := c.aAtime, type := c.tRepeat, bytes := [a] },
         { address := c.aWtime, type := c.tRepeat, bytes := [w] },
         { address := c.aAiltl, type := c.tAutoinc, bytes := t },
         { address := c.aPers, type := c.tRepeat, bytes := [sp] },
         { address := c.aConfig, type := c.tRepeat, bytes := [encodeConfig c l] },
         { address := c.aControl, type := c.tRepeat, bytes := [g] }] ∧
      job.enable = { address := c.aEnable, type := c.tRepeat, bytes := [enableByte c
        { powerOn := p.powerOn, active := p.active, wait := p.wait, interrupts := p.interrupts }] } := by
  unfold encodeProfile at h
  cases ha : encodeAtime p.integrationTimeMs with
  | error e => simp only [ha, Except.bind, reduceCtorEq] at h
  | ok a =>
  cases hw : encodeWtime p.waitTimeMs with
  | error e => simp only [ha, hw, Except.bind, reduceCtorEq] at h
  | ok w =>
  cases ht : encodeThreshold p.threshold.low p.threshold.high with
  | error e => simp only [ha, hw, ht, Except.bind, reduceCtorEq] at h
  | ok t =>
  cases hs : encodePers c p.filtering with
  | error e => simp only [ha, hw, ht, hs, Except.bind, reduceCtorEq] at h
  | ok sp =>
  cases hg : encodeGain c p.gain with
  | error e => simp only [ha, hw, ht, hs, hg, Except.bind, Except.map, reduceCtorEq] at h
  | ok g =>
  simp only [ha, hw, ht, hs, hg, Except.bind, Except.map, Except.ok.injEq] at h
  exact ⟨a, w.1, w.2, t, sp, g, rfl, rfl, rfl, rfl, rfl, by rw [← h], by rw [← h]⟩

/-- What the encoders of WR_PROFILE give is a sound job. -/
theorem encodeProfile_jobOk (h : CfgFacts c) {p : Profile} (hj : encodeProfile c p = .ok job) :
    jobOk c job = true := by
  obtain ⟨a, w, l, t, sp, g, -, -, ht, -, -, hp, he⟩ := encodeProfile_eq hj
  have := h.order_lt
  have h4 := componentOk_threshold h (encodeThreshold_length ht)
  have h1 : componentOk c { address := c.aAtime, type := c.tRepeat, bytes := [a] } = true :=
    componentOk_single (by simp [hostWritten]) (by omega)
  have h2 : componentOk c { address := c.aWtime, type := c.tRepeat, bytes := [w] } = true :=
    componentOk_single (by simp [hostWritten]) (by omega)
  have h3 : componentOk c { address := c.aPers, type := c.tRepeat, bytes := [sp] } = true :=
    componentOk_single (by simp [hostWritten]) (by omega)
  have h5 : componentOk c { address := c.aConfig, type := c.tRepeat, bytes := [encodeConfig c l] } = true :=
    componentOk_single (by simp [hostWritten]) (by omega)
  have h6 : componentOk c { address := c.aControl, type := c.tRepeat, bytes := [g] } = true :=
    componentOk_single (by simp [hostWritten]) (by omega)
  simp only [jobOk, hp, he, List.all_cons, List.all_nil, h1, h2, h3, h4, h5, h6, beq_self_eq_true,
    List.length_singleton, Bool.and_self]

/-! ### One write of a sound job -/

/-- A component write is one answered write. -/
theorem writeRegs_component (h : CfgFacts s.cfg) {w : RegWrite} (hw : componentOk s.cfg w = true) :
    writeRegs w s = s.answerWrite w.address.toNat w.bytes := by
  simp only [componentOk, Bool.and_eq_true, Bool.or_eq_true, beq_iff_eq, List.all_eq_true, List.mem_range,
    List.contains_iff_mem] at hw
  exact writeRegs_hostWritten h w hw.1 fun i hi => (hw.2 i hi).1

theorem jobOk_iff : jobOk c job = true ↔ (∀ w ∈ job.pending, componentOk c w = true) ∧ job.enable.address = c.aEnable ∧
    job.enable.type = c.tRepeat ∧ job.enable.bytes.length = 1 := by
  simp only [jobOk, Bool.and_eq_true, List.all_eq_true, beq_iff_eq, and_assoc]

/-- The write of ENABLE is one answered write. -/
theorem writeRegs_enable (h : CfgFacts s.cfg) (hj : jobOk s.cfg job = true) :
    writeRegs job.enable s = s.answerWrite s.cfg.aEnable.toNat job.enable.bytes := by
  obtain ⟨-, ha, ht, hl⟩ := jobOk_iff.mp hj
  rw [writeRegs_hostWritten h job.enable (.inr ⟨ht, hl⟩) fun i hi => ?_, ha]
  rw [hl] at hi
  obtain rfl : i = 0 := by omega
  simp [ha, hostWritten]

/-- With no component write left, ENABLE is written and the job is over. -/
theorem continueJob_enable (h : CfgFacts s.cfg) (hj : jobOk s.cfg job = true) (hp : job.pending = []) :
    continueJob job s = (s.answerWrite s.cfg.aEnable.toNat job.enable.bytes).bind fun _ t => .ok none t := by
  simp only [continueJob, hp, writeRegs_enable h hj]

/-- With component writes left, one of them is written, whichever the environment picks. -/
theorem continueJob_component (h : CfgFacts s.cfg) (hj : jobOk s.cfg job = true) {w : RegWrite}
    (hw : job.pending[s.pick % job.pending.length]? = some w) :
    continueJob job s = (s.picked.answerWrite w.address.toNat w.bytes).bind fun _ t =>
      .ok (some { job with pending := job.pending.eraseIdx (s.pick % job.pending.length) }) t := by
  have hwo := (jobOk_iff.mp hj).1 w (List.mem_of_getElem? hw)
  unfold continueJob
  split
  next hp => simp [hp] at hw
  next x xs hp =>
    rw [hp] at hw ⊢
    have hx : (x :: xs).getD (s.pick % (x :: xs).length) x = w := by simp only [List.getD, hw, Option.getD_some]
    rw [hx, writeRegs_component (s := s.picked) h hwo]

/-- A sound job has a write to issue, whichever the environment picks. -/
theorem exists_picked (s : State) (hp : job.pending ≠ []) :
    ∃ w ∈ job.pending, job.pending[s.pick % job.pending.length]? = some w := by
  have hlt : s.pick % job.pending.length < job.pending.length := Nat.mod_lt _ (List.length_pos_iff.mpr hp)
  exact ⟨_, List.getElem_mem hlt, List.getElem?_eq_getElem hlt⟩

/-- What is left of a sound job is sound. -/
theorem jobOk_eraseIdx (hj : jobOk c job = true) (n : Nat) :
    jobOk c { job with pending := job.pending.eraseIdx n } = true := by
  rw [jobOk_iff] at hj ⊢
  exact ⟨fun w hw => hj.1 w (List.eraseIdx_subset hw), hj.2⟩

end Sys2Proof.Machine
end

