-- ==== Sys2Proof/Laws/Registers.lean ====
section
/-! SUPPORT. What the host finds in the registers (R19, R49, R155, U5), that the decoders ignore reserved bits (R72),
and what the acknowledged reads answer. -/

namespace Sys2Proof.Machine

variable {s : State} {c : Cfg}

/-! ### Reserved bits are ignored by every decoder (R72, U5) -/

/-- Under a mask whose bits are all described, a read and the register agree. -/
theorem blend_and {mask m : Byte} (h : m &&& mask = m) (known other : Byte) :
    blend mask known other &&& m = known &&& m := by
  unfold blend
  split
  · rfl
  · refine BitVec.eq_of_getLsbD_eq fun i hi => ?_
    have hb := congrArg (·.getLsbD i) h
    simp only [BitVec.getLsbD_and, BitVec.getLsbD_or, BitVec.getLsbD_not, hi, decide_true, Bool.true_and] at hb ⊢
    cases hm : m.getLsbD i <;> simp_all

theorem testMask_blend {mask m : Byte} (h : m &&& mask = m) (known other : Byte) :
    testMask (blend mask known other) m = testMask known m := by
  simp only [testMask, blend_and h]

theorem and_or_self (a b : Byte) : a &&& (a ||| b) = a := by
  refine BitVec.eq_of_getLsbD_eq fun i _ => ?_
  simp only [BitVec.getLsbD_and, BitVec.getLsbD_or]
  cases a.getLsbD i <;> rfl

theorem and_or_of_and {a b : Byte} (h : a &&& b = a) (c : Byte) : a &&& (b ||| c) = a := by
  rw [← h, BitVec.and_assoc, and_or_self]

theorem and_self_or (a b : Byte) : a &&& (b ||| a) = a := by
  rw [BitVec.or_comm, and_or_self]

theorem enableFlags_blend (c : Cfg) (known other : Byte) :
    enableFlags c (blend (c.mPon ||| c.mAen ||| c.mWen ||| c.mAien) known other) = enableFlags c known := by
  have hp : c.mPon &&& (c.mPon ||| c.mAen ||| c.mWen ||| c.mAien) = c.mPon :=
    and_or_of_and (and_or_of_and (and_or_self _ _) _) _
  have ha : c.mAen &&& (c.mPon ||| c.mAen ||| c.mWen ||| c.mAien) = c.mAen :=
    and_or_of_and (and_or_of_and (and_self_or _ _) _) _
  have hw : c.mWen &&& (c.mPon ||| c.mAen ||| c.mWen ||| c.mAien) = c.mWen := and_or_of_and (and_self_or _ _) _
  simp only [enableFlags, testMask_blend hp, testMask_blend ha, testMask_blend hw, testMask_blend (and_self_or _ _)]

theorem statusFlags_blend (c : Cfg) (known other : Byte) :
    statusFlags c (blend (c.mAvalid ||| c.mAint) known other) = statusFlags c known := by
  simp only [statusFlags, testMask_blend (and_or_self _ _), testMask_blend (and_self_or _ _)]

theorem decodeConfig_blend (c : Cfg) (known other : Byte) :
    decodeConfig c (blend c.mWlong known other) = decodeConfig c known := by
  simp only [decodeConfig, testMask_blend (BitVec.and_self)]

theorem decodePers_blend (c : Cfg) (known other : Byte) :
    decodePers c (blend c.mApers known other) = decodePers c known := by
  simp only [decodePers, extractField, blend_and (BitVec.and_self)]

theorem decodeGain_blend (c : Cfg) (known other : Byte) :
    decodeGain c (blend c.mAgain known other) = decodeGain c known := by
  simp only [decodeGain, extractField, blend_and (BitVec.and_self)]

/-! ### What a read finds, register by register -/

theorem CfgFacts.fieldsApart (h : CfgFacts c) :
    c.aPers.toNat ≠ c.aEnable.toNat ∧ c.aConfig.toNat ≠ c.aEnable.toNat ∧ c.aConfig.toNat ≠ c.aPers.toNat
      ∧ c.aControl.toNat ≠ c.aEnable.toNat ∧ c.aControl.toNat ≠ c.aPers.toNat
      ∧ c.aControl.toNat ≠ c.aConfig.toNat ∧ c.aStatus.toNat ≠ c.aEnable.toNat ∧ c.aStatus.toNat ≠ c.aPers.toNat
      ∧ c.aStatus.toNat ≠ c.aConfig.toNat ∧ c.aStatus.toNat ≠ c.aControl.toNat := by
  have := h.order_lt
  omega

theorem enableFlags_hostByte :
    enableFlags s.cfg (s.hostByte s.cfg.aEnable.toNat) = enableFlags s.cfg (s.heldByte s.cfg.aEnable.toNat) := by
  rw [State.hostByte, describedBits, if_pos rfl, enableFlags_blend]

theorem decodePers_hostByte (h : CfgFacts s.cfg) :
    decodePers s.cfg (s.hostByte s.cfg.aPers.toNat) = decodePers s.cfg (s.heldByte s.cfg.aPers.toNat) := by
  rw [State.hostByte, describedBits, if_neg h.fieldsApart.1, if_pos rfl, decodePers_blend]

theorem decodeConfig_hostByte (h : CfgFacts s.cfg) :
    decodeConfig s.cfg (s.hostByte s.cfg.aConfig.toNat) = decodeConfig s.cfg (s.heldByte s.cfg.aConfig.toNat) := by
  obtain ⟨-, h1, h2, -⟩ := h.fieldsApart
  rw [State.hostByte, describedBits, if_neg h1, if_neg h2, if_pos rfl, decodeConfig_blend]

theorem decodeGain_hostByte (h : CfgFacts s.cfg) :
    decodeGain s.cfg (s.hostByte s.cfg.aControl.toNat) = decodeGain s.cfg (s.heldByte s.cfg.aControl.toNat) := by
  obtain ⟨-, -, -, h1, h2, h3, -⟩ := h.fieldsApart
  rw [State.hostByte, describedBits, if_neg h1, if_neg h2, if_neg h3, if_pos rfl, decodeGain_blend]

theorem statusFlags_hostByte (h : CfgFacts s.cfg) :
    statusFlags s.cfg (s.hostByte s.cfg.aStatus.toNat) = statusFlags s.cfg s.statusByte := by
  obtain ⟨-, -, -, -, -, -, h1, h2, h3, h4⟩ := h.fieldsApart
  rw [State.hostByte, describedBits, if_neg h1, if_neg h2, if_neg h3, if_neg h4, if_pos rfl, statusFlags_blend,
    State.heldByte, if_pos rfl]

/-- The five registers with reserved bits. -/
def fieldRegisters (c : Cfg) : List Nat :=
  [c.aEnable.toNat, c.aPers.toNat, c.aConfig.toNat, c.aControl.toNat, c.aStatus.toNat]

/-- A register of which every bit is described reads as the byte it holds (R49). -/
theorem hostByte_whole {a : Nat} (hn : a ∈ namedRegisters s.cfg) (hf : a ∉ fieldRegisters s.cfg) :
    s.hostByte a = s.regByte a := by
  simp only [fieldRegisters, List.mem_cons, List.not_mem_nil, or_false, not_or] at hf
  obtain ⟨h1, h2, h3, h4, h5⟩ := hf
  simp only [State.hostByte, describedBits, if_neg h1, if_neg h2, if_neg h3, if_neg h4, if_neg h5, if_pos hn, blend,
    if_true, State.heldByte]

/-- The host-written registers without reserved bits are ATIME, WTIME and the four threshold registers. -/
theorem hostByte_hostWritten (h : CfgFacts s.cfg) {a : Nat} (ha : a ∈ hostWritten s.cfg)
    (hf : a ∉ [s.cfg.aEnable.toNat, s.cfg.aPers.toNat, s.cfg.aConfig.toNat, s.cfg.aControl.toNat]) :
    s.hostByte a = s.regByte a := by
  have hs : a ≠ s.cfg.aStatus.toNat := fun e =>
    h.hostWritten_not_readOnly ha (by rw [e]; exact List.mem_cons_of_mem _ List.mem_cons_self)
  refine hostByte_whole (List.mem_append_left _ ha) ?_
  simp only [fieldRegisters, List.mem_cons, List.not_mem_nil, or_false, not_or] at hf ⊢
  exact ⟨hf.1, hf.2.1, hf.2.2.1, hf.2.2.2, hs⟩

/-- ATIME, WTIME and the threshold registers are not among the registers with fields. -/
theorem CfgFacts.timing_apart (h : CfgFacts c) : ∀ a ∈ [c.aAtime.toNat, c.aWtime.toNat],
    a ∉ [c.aEnable.toNat, c.aPers.toNat, c.aConfig.toNat, c.aControl.toNat] := by
  have := h.order_lt
  simp only [List.mem_cons, List.not_mem_nil, or_false, forall_eq_or_imp, forall_eq, not_or]
  omega

theorem CfgFacts.threshold_apart (h : CfgFacts c) {i : Nat} (hi : i < 4) :
    c.aAiltl.toNat + i ∉ [c.aEnable.toNat, c.aPers.toNat, c.aConfig.toNat, c.aControl.toNat] := by
  have := h.order_lt
  simp only [List.mem_cons, List.not_mem_nil, or_false, not_or]
  omega

theorem data_mem_readOnly (c : Cfg) {i : Nat} (hi : i < 8) : c.aCdatal.toNat + i ∈ readOnly c :=
  List.mem_cons_of_mem _ (List.mem_cons_of_mem _ (List.mem_map.mpr ⟨i, List.mem_range.mpr hi, rfl⟩))

/-- ID, STATUS and the data registers are different registers. -/
theorem CfgFacts.status_apart (h : CfgFacts s.cfg) :
    s.cfg.aId.toNat ≠ s.cfg.aStatus.toNat ∧ ∀ i < 8, s.cfg.aCdatal.toNat + i ≠ s.cfg.aStatus.toNat := by
  have hn := h.namedNodup
  rw [namedRegisters, List.nodup_append] at hn
  have hr := hn.2.1
  simp only [readOnly, chipWritten, List.nodup_cons, List.mem_cons, not_or] at hr
  refine ⟨hr.1.1, fun i hi e => hr.2.1 ?_⟩
  rw [← e]
  exact List.mem_map.mpr ⟨i, List.mem_range.mpr hi, rfl⟩

/-- A read-only register other than STATUS reads as the byte it holds. -/
theorem hostByte_readOnly (h : CfgFacts s.cfg) {a : Nat} (ha : a ∈ readOnly s.cfg) (hs : a ≠ s.cfg.aStatus.toNat) :
    s.hostByte a = s.regByte a := by
  have hw : ∀ x ∈ hostWritten s.cfg, a ≠ x := fun x hx e => h.hostWritten_not_readOnly hx (e ▸ ha)
  refine hostByte_whole (List.mem_append_right _ ha) ?_
  simp only [fieldRegisters, List.mem_cons, List.not_mem_nil, or_false, not_or]
  exact ⟨hw _ (by simp [hostWritten]), hw _ (by simp [hostWritten]), hw _ (by simp [hostWritten]),
    hw _ (by simp [hostWritten]), hs⟩

/-- A data register reads as the byte it holds. -/
theorem hostByte_data (h : CfgFacts s.cfg) {i : Nat} (hi : i < 8) :
    s.hostByte (s.cfg.aCdatal.toNat + i) = s.regByte (s.cfg.aCdatal.toNat + i) :=
  hostByte_readOnly h (data_mem_readOnly _ hi) (h.status_apart.2 i hi)

/-- The identity register reads as the byte it holds. -/
theorem hostByte_id (h : CfgFacts s.cfg) : s.hostByte s.cfg.aId.toNat = s.regByte s.cfg.aId.toNat :=
  hostByte_readOnly h List.mem_cons_self h.status_apart.1

/-- An acknowledged RD_STATUS finds the two flags. -/
theorem rdStatus_ok (h : CfgFacts s.cfg) (ha : s.answer = .ok) :
    rdStatus s = .ok (statusFlags s.cfg s.statusByte) s.answered := by
  simp only [rdStatus, rdByte, readRegs_repeat h, State.answerRead_ok ha, Slice.bind]
  rw [show s.answered.cfg = s.cfg from rfl, statusFlags_hostByte h]

/-- A block of twenty bytes, register by register. -/
theorem byteAt_block (f : Nat → Byte) {e a : Nat} (h1 : e ≤ a) (h2 : a < e + 20) :
    byteAt ((List.range 20).map fun i => f (e + i)) (a - e) = f a := by
  simp only [byteAt, List.getD_eq_getElem?_getD, List.getElem?_map, List.getElem?_range (show a - e < 20 by omega),
    Option.map_some, Option.getD_some]
  rw [show e + (a - e) = a by omega]

/-- Four bytes of such a block. -/
theorem block_slice (f : Nat → Byte) {e a : Nat} (h1 : e ≤ a) (h2 : a + 4 ≤ e + 20) :
    ((((List.range 20).map fun i => f (e + i)).drop (a - e)).take 4) = (List.range 4).map fun i => f (a + i) := by
  refine List.ext_getElem ?_ fun i hi hj => ?_
  · simp only [List.length_take, List.length_drop, List.length_map, List.length_range]; omega
  · simp only [List.getElem_take, List.getElem_drop, List.getElem_map, List.getElem_range]
    rw [show e + (a - e + i) = a + i by omega]

/-- Away from STATUS the byte that stands at an address is the register's. -/
theorem heldByte_of_ne {a : Nat} (h : a ≠ s.cfg.aStatus.toNat) : s.heldByte a = s.regByte a := if_neg h

/-- An acknowledged RD_PROFILE decodes the bytes that stand in the registers: every decoder ignores what the reserved
bits of a read are. -/
theorem rdProfile_ok (h : CfgFacts s.cfg) (ha : s.answer = .ok) :
    rdProfile s = Slice.ofExcept
      (decodeProfile s.cfg ((List.range 20).map fun i => s.heldByte (s.cfg.aEnable.toNat + i))) s.answered := by
  simp only [rdProfile, readRegs_autoinc h.block_inside, State.answerRead_ok ha, Slice.bind, List.length_map,
    List.length_range, Nat.lt_irrefl, if_false]
  rw [show s.answered.cfg = s.cfg from rfl]
  congr 1
  have hl := h.order_lt
  have hp := h.span
  have hth : ((List.range 4).map fun i => s.hostByte (s.cfg.aAiltl.toNat + i)) =
      (List.range 4).map fun i => s.heldByte (s.cfg.aAiltl.toNat + i) :=
    List.map_congr_left fun i hi => by
      have hi := List.mem_range.mp hi
      rw [hostByte_hostWritten h (threshold_hostWritten _ hi) (h.threshold_apart hi), heldByte_of_ne (by omega)]
  have hw : ∀ a ∈ [s.cfg.aAtime.toNat, s.cfg.aWtime.toNat], a ∈ hostWritten s.cfg → s.hostByte a = s.heldByte a :=
    fun a hm hh => by
      rw [hostByte_hostWritten h hh (h.timing_apart a hm), heldByte_of_ne]
      simp only [List.mem_cons, List.not_mem_nil, or_false] at hm
      omega
  have hs : s.heldByte s.cfg.aStatus.toNat = s.statusByte := if_pos rfl
  simp only [decodeProfile, block_slice s.hostByte (show s.cfg.aEnable.toNat ≤ s.cfg.aAiltl.toNat by omega) (by omega),
    block_slice s.heldByte (show s.cfg.aEnable.toNat ≤ s.cfg.aAiltl.toNat by omega) (by omega), hth,
    byteAt_block s.hostByte (show s.cfg.aEnable.toNat ≤ s.cfg.aEnable.toNat by omega) (by omega),
    byteAt_block s.heldByte (show s.cfg.aEnable.toNat ≤ s.cfg.aEnable.toNat by omega) (by omega),
    byteAt_block s.hostByte (show s.cfg.aEnable.toNat ≤ s.cfg.aAtime.toNat by omega) (by omega),
    byteAt_block s.heldByte (show s.cfg.aEnable.toNat ≤ s.cfg.aAtime.toNat by omega) (by omega),
    byteAt_block s.hostByte (show s.cfg.aEnable.toNat ≤ s.cfg.aWtime.toNat by omega) (by omega),
    byteAt_block s.heldByte (show s.cfg.aEnable.toNat ≤ s.cfg.aWtime.toNat by omega) (by omega),
    byteAt_block s.hostByte (show s.cfg.aEnable.toNat ≤ s.cfg.aPers.toNat by omega) (by omega),
    byteAt_block s.heldByte (show s.cfg.aEnable.toNat ≤ s.cfg.aPers.toNat by omega) (by omega),
    byteAt_block s.hostByte (show s.cfg.aEnable.toNat ≤ s.cfg.aConfig.toNat by omega) (by omega),
    byteAt_block s.heldByte (show s.cfg.aEnable.toNat ≤ s.cfg.aConfig.toNat by omega) (by omega),
    byteAt_block s.hostByte (show s.cfg.aEnable.toNat ≤ s.cfg.aControl.toNat by omega) (by omega),
    byteAt_block s.heldByte (show s.cfg.aEnable.toNat ≤ s.cfg.aControl.toNat by omega) (by omega),
    byteAt_block s.hostByte (show s.cfg.aEnable.toNat ≤ s.cfg.aStatus.toNat by omega) (by omega),
    byteAt_block s.heldByte (show s.cfg.aEnable.toNat ≤ s.cfg.aStatus.toNat by omega) (by omega),
    enableFlags_hostByte, decodePers_hostByte h, decodeConfig_hostByte h, decodeGain_hostByte h,
    statusFlags_hostByte h, hs, hw _ (by simp) (show s.cfg.aAtime.toNat ∈ _ by simp [hostWritten]),
    hw _ (by simp) (show s.cfg.aWtime.toNat ∈ _ by simp [hostWritten])]

/-- An acknowledged RD_THRESH finds the window the threshold registers hold. -/
theorem rdThresh_ok (h : CfgFacts s.cfg) (ha : s.answer = .ok) : rdThresh s = .ok s.bandNow s.answered := by
  have hl : ((List.range 4).map fun i => s.hostByte (s.cfg.aAiltl.toNat + i)) =
      (List.range 4).map fun i => s.regByte (s.cfg.aAiltl.toNat + i) :=
    List.map_congr_left fun i hi => hostByte_hostWritten h (threshold_hostWritten _ (List.mem_range.mp hi))
      (h.threshold_apart (List.mem_range.mp hi))
  simp only [rdThresh, readRegs_autoinc h.threshold_inside, State.answerRead_ok ha, hl]
  rfl

/-- The sample the data registers hold (R30, R106). -/
def State.dataNow (s : State) : Sample :=
  { clear := le16 (s.regByte s.cfg.aCdatal.toNat) (s.regByte (s.cfg.aCdatal.toNat + 1))
    red := le16 (s.regByte (s.cfg.aCdatal.toNat + 2)) (s.regByte (s.cfg.aCdatal.toNat + 3))
    green := le16 (s.regByte (s.cfg.aCdatal.toNat + 4)) (s.regByte (s.cfg.aCdatal.toNat + 5))
    blue := le16 (s.regByte (s.cfg.aCdatal.toNat + 6)) (s.regByte (s.cfg.aCdatal.toNat + 7)) }

/-- An acknowledged RD_DATA finds the sample the data registers hold. -/
theorem rdData_ok (h : CfgFacts s.cfg) (ha : s.answer = .ok) :
    rdData s = .ok (s.dataNow, derive s.dataNow) s.answered := by
  have hl : ((List.range 8).map fun i => s.hostByte (s.cfg.aCdatal.toNat + i)) =
      (List.range 8).map fun i => s.regByte (s.cfg.aCdatal.toNat + i) :=
    List.map_congr_left fun i hi => hostByte_data h (List.mem_range.mp hi)
  simp only [rdData, readRegs_autoinc h.data_inside, State.answerRead_ok ha, hl]
  rfl

/-- An acknowledged RD_ID finds the identity byte. -/
theorem rdId_ok (h : CfgFacts s.cfg) (ha : s.answer = .ok) : rdId s = .ok (s.regByte s.cfg.aId.toNat) s.answered := by
  simp only [rdId, rdByte, readRegs_repeat h, State.answerRead_ok ha, hostByte_id h]
  rfl

end Sys2Proof.Machine
end

