-- ==== Sys2Proof/Laws/Session.lean ====
section
/-! SUPPORT. The invariant taken apart: what a sound session and a sound state give, one fact each. -/

namespace Sys2Proof.Machine

variable {c : Cfg} {n : Session} {s : State}

/-- The facts of `sessionOk`, spelled out. -/
structure SessionFacts (c : Cfg) (n : Session) : Prop where
  bus : n.bus = n.lifecycle.holdsBus
  config : n.config.isSome = (n.lifecycle != .unconfigured)
  led : n.led.isSome = true → n.bus = true
  line : n.line = true → n.bus = true
  pollTimer : n.pollTimer.isSome = true → n.lifecycle = .running
  retryTimer : n.retryTimer.isSome = (n.lifecycle == .retryWaiting)
  watcher : n.watcher = true → n.lifecycle = .running ∧ n.line = true
  edge : n.edge = true → n.watcher = true
  profile : n.profile.isSome = (n.lifecycle == .running)
  windowHeld : n.window.isSome = (n.lifecycle == .running)
  poll : n.poll.isSome = true → n.lifecycle.started = true
  irq : n.irq.isSome = true → n.lifecycle.started = true
  window : ∀ w, n.window = some w → windowOk w = true
  applying : ∀ p, n.applying = some p → n.lifecycle = .applyingProfile ∧
    (∀ hc, n.config = some hc → windowOk (mergeProfile hc.profile).threshold = true) ∧
    (∀ job, p = .write job → jobOk c job = true)

theorem sessionOk_iff : sessionOk c n = true ↔ SessionFacts c n := by
  constructor
  · intro h
    simp only [sessionOk, Bool.and_eq_true, beq_iff_eq, Bool.or_eq_true, Bool.not_eq_true',
      ← Bool.not_eq_true] at h
    obtain ⟨⟨⟨⟨⟨⟨⟨⟨⟨⟨⟨⟨⟨a, b⟩, d⟩, e⟩, f⟩, g⟩, i⟩, j⟩, k⟩, k'⟩, o⟩, q⟩, l⟩, m⟩ := h
    refine ⟨a, b, by tauto, by tauto, by tauto, g, by tauto, by tauto, k, k', by tauto, by tauto, ?_, ?_⟩
    · intro w hw; rw [hw] at l; exact l
    · intro p hp
      simp only [applyingOk, hp, Bool.and_eq_true, beq_iff_eq, Option.all_eq_true] at m
      refine ⟨m.1.1, m.1.2, ?_⟩
      rintro job rfl; exact m.2
  · intro ⟨a, b, d, e, f, g, i, j, k, k', o, q, l, m⟩
    simp only [sessionOk, Bool.and_eq_true, beq_iff_eq, Bool.or_eq_true, Bool.not_eq_true',
      ← Bool.not_eq_true]
    refine ⟨⟨⟨⟨⟨⟨⟨⟨⟨⟨⟨⟨⟨a, b⟩, by tauto⟩, by tauto⟩, by tauto⟩, g⟩, by tauto⟩, by tauto⟩, k⟩, k'⟩, by tauto⟩,
      by tauto⟩, ?_⟩, ?_⟩
    · cases hw : n.window with
      | none => rfl
      | some w => exact l w hw
    · cases hp : n.applying with
      | none => simp only [applyingOk, hp]
      | some p =>
        have hm := m p hp
        simp only [applyingOk, hp, Bool.and_eq_true, beq_iff_eq, Option.all_eq_true]
        refine ⟨⟨hm.1, hm.2.1⟩, ?_⟩
        cases p with
        | write job => exact hm.2.2 job rfl
        | clear => rfl

/-- The facts of the invariant, spelled out. -/
theorem State.sound_iff : s.sound = true ↔ CfgFacts s.cfg ∧ memWf s.cfg.resetReg s.chip.reg = true ∧
    SessionFacts s.cfg s.session ∧ (∀ job, s.job = some job → jobOk s.cfg job = true)
      ∧ (s.session.edge = true → s.chip.latch = true) := by
  simp only [State.sound, Bool.and_eq_true, cfgWellFormed_iff, sessionOk_iff, Option.all_eq_true, and_assoc,
    Bool.or_eq_true, Bool.not_eq_true', ← Bool.not_eq_true, ← imp_iff_not_or]

/-- The invariant rests on the parameters, the register file, the latch, the session and the job. -/
theorem State.sound_congr {t : State} (h : s.sound = true) (hc : t.cfg = s.cfg) (hr : t.chip.reg = s.chip.reg)
    (hl : t.chip.latch = s.chip.latch) (hn : t.session = s.session) (hj : t.job = s.job) : t.sound = true := by
  rw [State.sound_iff] at h ⊢
  rw [hc, hr, hl, hn, hj]
  exact h

/-- A block store inside the register space keeps the canonical form. -/
theorem State.setRegs_memWf {a : Nat} {bs : List Byte} (h : memWf s.cfg.resetReg s.chip.reg = true)
    (ha : a + bs.length ≤ 32) : memWf s.cfg.resetReg (s.setRegs a bs).chip.reg = true := by
  induction bs generalizing s a with
  | nil => exact h
  | cons b rest ih =>
    rw [List.length_cons] at ha
    exact ih (s := s.setReg a b) (memWrite_wf h (by omega)) (by omega)

/-- So does a block store that fails halfway. -/
theorem State.landRegs_memWf {a : Nat} {bs : List Byte} {l : List Bool}
    (h : memWf s.cfg.resetReg s.chip.reg = true) (ha : a + bs.length ≤ 32) :
    memWf s.cfg.resetReg (s.landRegs a bs l).chip.reg = true := by
  induction bs generalizing s a l with
  | nil => exact h
  | cons b rest ih =>
    rw [List.length_cons] at ha
    rw [State.landRegs]
    split
    · exact ih (s := s.setReg a b) (memWrite_wf h (by omega)) (by omega)
    · exact ih h (by omega)

end Sys2Proof.Machine
end

