-- ==== Sys2Proof/Laws/Chip.lean ====
section
/-! SUPPORT. What the chip can do by itself (R153 to R155, decision D32), at a move of its own and between the accesses of
a repeated read (R45), and what STATUS shows of the latch. -/

namespace Sys2Proof.Machine

/-! ### The chip's stores -/

/-- What the chip puts into STATUS and the data registers changes only the register file. -/
theorem State.chipStores_eq (s : State) (status : Byte) (x : Sample) :
    ∃ reg, s.chipStores status x = { s with chip := { s.chip with reg := reg } } := by
  obtain ⟨reg, h⟩ := (s.setReg s.cfg.aStatus.toNat status).setRegs_eq s.cfg.aCdatal.toNat (sampleBytes x)
  exact ⟨reg, by rw [State.chipStores, h]; rfl⟩

/-- A register after the chip's stores: one of the eight data registers, STATUS, or as before. -/
theorem State.regByte_chipStores (s : State) (status : Byte) (x : Sample) (a : Nat) :
    (s.chipStores status x).regByte a =
      if s.cfg.aCdatal.toNat ≤ a ∧ a < s.cfg.aCdatal.toNat + 8 then (sampleBytes x).getD (a - s.cfg.aCdatal.toNat) 0
      else if a = s.cfg.aStatus.toNat then status else s.regByte a := by
  rw [State.chipStores, State.regByte_setRegs, State.regByte_setReg]
  rfl

/-- The chip's stores leave the registers the host writes alone. -/
theorem State.regByte_chipStores_hostWritten {s : State} (h : CfgFacts s.cfg) (status : Byte) (x : Sample) {a : Nat}
    (ha : a ∈ hostWritten s.cfg) : (s.chipStores status x).regByte a = s.regByte a := by
  have hn := h.hostWritten_not_readOnly ha
  have h1 : ¬ (s.cfg.aCdatal.toNat ≤ a ∧ a < s.cfg.aCdatal.toNat + 8) := fun hr => hn <| by
    refine List.mem_cons_of_mem _ (List.mem_cons_of_mem _ (List.mem_map.mpr ⟨a - s.cfg.aCdatal.toNat, ?_, ?_⟩))
    · simp only [List.mem_range]; omega
    · omega
  have h2 : a ≠ s.cfg.aStatus.toNat := fun e => hn (by simp [readOnly, chipWritten, e])
  rw [State.regByte_chipStores, if_neg h1, if_neg h2]

/-- Every register the chip's stores touch is one of its own (R29, R30). -/
theorem State.regByte_chipStores_other {s : State} (status : Byte) (x : Sample) {a : Nat}
    (ha : a ∉ chipWritten s.cfg) : (s.chipStores status x).regByte a = s.regByte a := by
  have h1 : ¬ (s.cfg.aCdatal.toNat ≤ a ∧ a < s.cfg.aCdatal.toNat + 8) := fun hr =>
    ha (List.mem_cons_of_mem _ (List.mem_map.mpr ⟨a - s.cfg.aCdatal.toNat, List.mem_range.mpr (by omega), by omega⟩))
  have h2 : a ≠ s.cfg.aStatus.toNat := fun e => ha (e ▸ List.mem_cons_self)
  rw [State.regByte_chipStores, if_neg h1, if_neg h2]

/-- The chip's stores keep the canonical form. -/
theorem State.chipStores_memWf {s : State} (h : CfgFacts s.cfg) (hm : memWf s.cfg.resetReg s.chip.reg = true)
    (status : Byte) (x : Sample) : memWf s.cfg.resetReg (s.chipStores status x).chip.reg = true :=
  State.setRegs_memWf (s := s.setReg s.cfg.aStatus.toNat status) (memWrite_wf hm s.cfg.aStatus.isLt) h.data_inside

/-! ### A move of the chip -/

/-- The chip changes nothing but itself. -/
theorem chipActs_eq (act : ChipAct) (s : State) : ∃ chip, chipActs act s = { s with chip := chip } := by
  cases act with
  | update status x => obtain ⟨reg, h⟩ := s.chipStores_eq status x; exact ⟨_, h⟩
  | cycle status x m =>
    obtain ⟨reg, h⟩ := s.chipStores_eq status x
    simp only [chipActs]
    split
    · rw [h]; exact ⟨_, rfl⟩
    · exact ⟨s.chip, rfl⟩
  | forgetRun =>
    simp only [chipActs]
    split
    · exact ⟨s.chip, rfl⟩
    · exact ⟨_, rfl⟩

/-- What every move of the chip keeps: the parameters, the registers that are not its own, a latched condition, and the
canonical form (R28 to R30, R155, decision D32). -/
structure ChipKeeps (s t : State) : Prop where
  cfg : t.cfg = s.cfg
  regs : ∀ a, a ∉ chipWritten s.cfg → t.regByte a = s.regByte a
  latch : s.chip.latch = true → t.chip.latch = true
  memWf : CfgFacts s.cfg → memWf s.cfg.resetReg s.chip.reg = true → memWf s.cfg.resetReg t.chip.reg = true

theorem ChipKeeps.refl (s : State) : ChipKeeps s s := ⟨rfl, fun _ _ => rfl, id, fun _ h => h⟩

theorem ChipKeeps.trans {s t u : State} (h : ChipKeeps s t) (k : ChipKeeps t u) : ChipKeeps s u :=
  ⟨k.cfg.trans h.cfg, fun a ha => (k.regs a (h.cfg ▸ ha)).trans (h.regs a ha), fun hl => k.latch (h.latch hl),
    fun hc hm => h.cfg ▸ k.memWf (h.cfg ▸ hc) (h.cfg ▸ h.memWf hc hm)⟩

theorem State.chipStores_keeps (s : State) (status : Byte) (x : Sample) : ChipKeeps s (s.chipStores status x) := by
  refine ⟨?_, fun a ha => s.regByte_chipStores_other status x ha, ?_, fun hc hm => s.chipStores_memWf hc hm status x⟩ <;>
    obtain ⟨reg, h⟩ := s.chipStores_eq status x <;> rw [h]
  exact id

/-- The comparator changes the latch, which stays once set, and the count. -/
theorem State.compare_keeps (s : State) (clear : Word) (m : Bool) : ChipKeeps s (s.compare clear m) where
  cfg := rfl
  regs _ _ := rfl
  latch h := by simp only [State.compare, h, Bool.true_or]
  memWf _ h := by rw [State.compare_reg]; exact h

theorem State.forgetRun_keeps (s : State) : ChipKeeps s s.forgetRun := ⟨rfl, fun _ _ => rfl, id, fun _ h => h⟩

/-- A cycle completes only while the chip converts (R21, R173). -/
theorem chipActs_cycle (s : State) (status : Byte) (x : Sample) (m : Bool) : chipActs (.cycle status x m) s =
    if s.converting then (s.chipStores status x).compare x.clear m else s := rfl

theorem chipActs_keeps (act : ChipAct) (s : State) : ChipKeeps s (chipActs act s) := by
  cases act with
  | update status x => exact s.chipStores_keeps status x
  | cycle status x m =>
    rw [chipActs_cycle]
    cases s.converting with
    | false => exact .refl s
    | true => exact (s.chipStores_keeps status x).trans ((s.chipStores status x).compare_keeps x.clear m)
  | forgetRun =>
    rw [show chipActs .forgetRun s = if s.converting then s else s.forgetRun from rfl]
    cases s.converting with
    | false => exact s.forgetRun_keeps
    | true => exact .refl s

/-- The condition is newly latched by a completed cycle only (R153, R155). -/
theorem chipActs_latches {act : ChipAct} {s : State} (h0 : s.chip.latch = false)
    (h1 : (chipActs act s).chip.latch = true) : ∃ status x m, act = .cycle status x m := by
  cases act with
  | update status x =>
    obtain ⟨reg, h⟩ := s.chipStores_eq status x
    rw [chipActs, h] at h1
    exact Bool.noConfusion (h0.symm.trans h1)
  | cycle status x m => exact ⟨status, x, m, rfl⟩
  | forgetRun =>
    simp only [chipActs] at h1
    split at h1 <;> exact Bool.noConfusion (h0.symm.trans h1)

/-! ### Several moves, and the interludes of a repeated read (R45) -/

theorem chipRuns_eq (acts : List ChipAct) (s : State) :
    ∃ chip, acts.foldl (fun t act => chipActs act t) s = { s with chip := chip } := by
  induction acts generalizing s with
  | nil => exact ⟨s.chip, rfl⟩
  | cons act rest ih =>
    obtain ⟨c, hc⟩ := chipActs_eq act s
    obtain ⟨d, hd⟩ := ih (chipActs act s)
    exact ⟨d, by rw [List.foldl_cons, hd, hc]⟩

theorem chipRuns_keeps (acts : List ChipAct) (s : State) :
    ChipKeeps s (acts.foldl (fun t act => chipActs act t) s) := by
  induction acts generalizing s with
  | nil => exact .refl s
  | cons act rest ih => exact (chipActs_keeps act s).trans (ih _)

theorem chipRuns_latches {acts : List ChipAct} {s : State} (h0 : s.chip.latch = false)
    (h1 : (acts.foldl (fun t act => chipActs act t) s).chip.latch = true) : ∃ status x m, .cycle status x m ∈ acts := by
  induction acts generalizing s with
  | nil => exact Bool.noConfusion (h0.symm.trans h1)
  | cons act rest ih =>
    cases hl : (chipActs act s).chip.latch with
    | true =>
      obtain ⟨st, x, m, rfl⟩ := chipActs_latches h0 hl
      exact ⟨st, x, m, List.mem_cons_self⟩
    | false =>
      obtain ⟨st, x, m, hm⟩ := ih hl h1
      exact ⟨st, x, m, List.mem_cons_of_mem _ hm⟩

/-- An interlude changes the chip and the environment's counters. -/
theorem State.interlude_eq (s : State) : ∃ chip, s.interlude =
    { s with chip := chip, interludes := s.interludes.tail, draws := s.draws + 1 } := by
  obtain ⟨c, h⟩ := chipRuns_eq (s.interludes.headD [])
    { s with interludes := s.interludes.tail, draws := s.draws + 1 }
  exact ⟨c, h⟩

theorem State.interlude_keeps (s : State) : ChipKeeps s s.interlude := by
  obtain ⟨h1, h2, h3, h4⟩ := chipRuns_keeps (s.interludes.headD [])
    { s with interludes := s.interludes.tail, draws := s.draws + 1 }
  exact ⟨h1, h2, h3, h4⟩

/-- So do several. -/
theorem State.afterInterludes_eq (s : State) (n : Nat) : ∃ chip, s.afterInterludes n =
    { s with chip := chip, interludes := s.interludes.drop n, draws := s.draws + n } := by
  induction n with
  | zero => exact ⟨s.chip, rfl⟩
  | succ k ih =>
    obtain ⟨c, h⟩ := ih
    obtain ⟨d, hd⟩ := (s.afterInterludes k).interlude_eq
    refine ⟨d, ?_⟩
    rw [State.afterInterludes, hd, h]
    simp only [List.tail_drop, Nat.add_assoc]

theorem State.afterInterludes_keeps (s : State) (n : Nat) : ChipKeeps s (s.afterInterludes n) := by
  induction n with
  | zero => exact .refl s
  | succ k ih => exact ih.trans (s.afterInterludes k).interlude_keeps

/-- From one access of a repeated read to a later one. -/
theorem State.afterInterludes_later (s : State) {i j : Nat} (h : i ≤ j) :
    ChipKeeps (s.afterInterludes i) (s.afterInterludes j) := by
  induction j, h using Nat.le_induction with
  | base => exact .refl _
  | succ k _ ih => exact ih.trans (s.afterInterludes k).interlude_keeps

/-- A condition newly latched within a repeated read is a completed cycle's, in one of its interludes (R153, R155). -/
theorem State.afterInterludes_latches {s : State} {n : Nat} (h0 : s.chip.latch = false)
    (h1 : (s.afterInterludes n).chip.latch = true) :
    ∃ acts ∈ s.interludes.take n, ∃ status x m, .cycle status x m ∈ acts := by
  induction n with
  | zero => exact Bool.noConfusion (h0.symm.trans h1)
  | succ k ih =>
    cases hl : (s.afterInterludes k).chip.latch with
    | true =>
      obtain ⟨acts, ha, h⟩ := ih hl
      exact ⟨acts, List.take_subset_take_left _ (Nat.le_succ k) ha, h⟩
    | false =>
      obtain ⟨c, hc⟩ := s.afterInterludes_eq k
      obtain ⟨st, x, m, hm⟩ := chipRuns_latches (s := { s.afterInterludes k with
        interludes := (s.afterInterludes k).interludes.tail, draws := (s.afterInterludes k).draws + 1 }) hl h1
      rw [hc] at hm
      simp only [List.headD_eq_head?_getD, List.head?_drop] at hm
      cases hk : s.interludes[k]? with
      | none => rw [hk] at hm; exact absurd hm List.not_mem_nil
      | some acts =>
        rw [hk] at hm
        refine ⟨acts, List.mem_of_getElem? (i := k) ?_, st, x, m, hm⟩
        rw [List.getElem?_take_of_lt (Nat.lt_succ_self k), hk]

/-- With no interlude given the chip stays as it is. -/
theorem State.afterInterludes_none {s : State} (h : s.interludes = []) (n : Nat) :
    s.afterInterludes n = { s with draws := s.draws + n } := by
  induction n with
  | zero => rfl
  | succ k ih => rw [State.afterInterludes, ih, State.interlude, h]; rfl

/-! ### A repeated read (R45) -/

/-- The `i`-th access of a repeated read finds the register as it stands after `i` interludes. -/
theorem busRead_repeat {s : State} (h : CfgFacts s.cfg) (a : BitVec 5) (n : Nat) :
    busRead (commandByte a s.cfg.tRepeat true) n s = (s.afterInterludes (n - 1)).answerRead
      ((List.range n).map fun i => (s.afterInterludes i).hostByte a.toNat) := by
  simp only [busRead, cmdIndicator_commandByte, cmdType_commandByte, cmdAddress_commandByte, Bool.not_true,
    Bool.false_eq_true, if_false, if_neg h.types_ne.1, if_true]

/-! ### What STATUS shows of the latch (R155, U21) -/

/-- While interrupts are enabled, STATUS `thresholdViolation` is the latch. -/
theorem State.statusByte_violation {s : State} (h : CfgFacts s.cfg) (he : s.enableNow.interrupts = true) :
    (statusFlags s.cfg s.statusByte).thresholdViolation = s.chip.latch := by
  have hm : s.cfg.mAint ≠ 0 := isOneBit_ne_zero (h.masks _ (by simp))
  have h0 : testMask (s.regByte s.cfg.aStatus.toNat &&& ~~~s.cfg.mAint) s.cfg.mAint = false := by
    simp [testMask, BitVec.and_assoc]
  simp only [statusFlags, State.statusByte, he, if_true, testMask_or, testMask_maskIf_self hm, h0, Bool.false_or]

/-- While interrupts are enabled, the chip is in the state R166 gives at entry exactly when the condition is latched. -/
theorem State.violationStands_enabled {s : State} (h : CfgFacts s.cfg) (he : s.enableNow.interrupts = true) :
    s.violationStands = s.chip.latch := by
  rw [State.violationStands, s.statusByte_violation h he, Bool.and_self]

end Sys2Proof.Machine
end

