-- ==== Sys2Proof/Laws/Enumerations.lean ====
section
/-! SUPPORT. The two enumerations under well-formed parameters: keys and codes determine each other (R16, R17). -/

namespace Sys2Proof.Machine

variable {c : Cfg}

/-! ### Persistence (R17, R98) -/

/-- The keys of the persistence table are sixteen. -/
theorem persKeys_length : persKeys.length = 16 := rfl

theorem persKeys_index_lt {i : Nat} {f : Filter} (h : persKeys[i]? = some f) : i < 16 :=
  (List.getElem?_eq_some_iff.mp h).1

/-- The sixteen codes are all the 4-bit values there are, so every code is one of them. -/
theorem CfgFacts.mem_persCode (h : CfgFacts c) (x : BitVec 4) : x ∈ c.persCode := by
  have hu : c.persCode.toFinset = Finset.univ := by
    apply Finset.eq_univ_of_card
    rw [List.toFinset_card_of_nodup h.persNodup, h.persLength]
    rfl
  have hx : x ∈ c.persCode.toFinset := by rw [hu]; exact Finset.mem_univ x
  exact List.mem_toFinset.mp hx

/-- Equal codes stand at one place of the table. -/
theorem CfgFacts.persCode_index_unique (h : CfgFacts c) {i j : Nat} {x : BitVec 4} (hi : c.persCode[i]? = some x)
    (hj : c.persCode[j]? = some x) : i = j := by
  obtain ⟨hi, ei⟩ := List.getElem?_eq_some_iff.mp hi
  obtain ⟨hj, ej⟩ := List.getElem?_eq_some_iff.mp hj
  exact (List.Nodup.getElem_inj_iff h.persNodup).mp (ei.trans ej.symm)

/-- Every code has a key, the one that stands where the code does. -/
theorem CfgFacts.persKeyOf_index (h : CfgFacts c) (x : BitVec 4) :
    ∃ i : Nat, persKeys[i]? = some (persKeyOf c x) ∧ c.persCode[i]? = some x := by
  obtain ⟨i, hi⟩ := List.mem_iff_getElem?.mp (h.mem_persCode x)
  have hlt : i < 16 := h.persLength ▸ (List.getElem?_eq_some_iff.mp hi).1
  cases hf : (persTable c).find? (fun p => p.2 == x) with
  | none =>
    have hm : (persKeys[i]'hlt, x) ∈ persTable c :=
      List.mem_iff_getElem?.mpr ⟨i, List.getElem?_zip_eq_some.mpr ⟨List.getElem?_eq_getElem hlt, hi⟩⟩
    have := List.find?_eq_none.mp hf _ hm
    simp at this
  | some p =>
    obtain ⟨j, hj⟩ := List.mem_iff_getElem?.mp (List.mem_of_find?_eq_some hf)
    have hx : p.2 = x := by simpa using List.find?_some hf
    obtain ⟨hk, hc⟩ := List.getElem?_zip_eq_some.mp hj
    exact ⟨j, by rw [persKeyOf, hf]; exact hk, hx ▸ hc⟩

/-- Every key has the code that stands where the key does. -/
theorem CfgFacts.persCodeOf_index (h : CfgFacts c) {i : Nat} {f : Filter} (hi : persKeys[i]? = some f) :
    c.persCode[i]? = some (persCodeOf c f) := by
  have hlt := persKeys_index_lt hi
  have hnd : persKeys.Nodup := by decide
  cases hf : (persTable c).find? (fun p => p.1 == f) with
  | none =>
    have hl : i < c.persCode.length := by rw [h.persLength]; exact hlt
    have hm : (f, c.persCode[i]) ∈ persTable c :=
      List.mem_iff_getElem?.mpr ⟨i, List.getElem?_zip_eq_some.mpr ⟨hi, List.getElem?_eq_getElem hl⟩⟩
    have := List.find?_eq_none.mp hf _ hm
    simp at this
  | some p =>
    obtain ⟨j, hj⟩ := List.mem_iff_getElem?.mp (List.mem_of_find?_eq_some hf)
    have hx : p.1 = f := by simpa using List.find?_some hf
    obtain ⟨hk, hc⟩ := List.getElem?_zip_eq_some.mp hj
    obtain ⟨hi', ei⟩ := List.getElem?_eq_some_iff.mp hi
    obtain ⟨hj', ej⟩ := List.getElem?_eq_some_iff.mp hk
    have hij : i = j := (List.Nodup.getElem_inj_iff hnd).mp (ei.trans (hx.symm.trans ej.symm))
    rw [persCodeOf, hf, hij]
    exact hc

/-- The code of the key of a code is that code. -/
theorem CfgFacts.persCodeOf_persKeyOf (h : CfgFacts c) (x : BitVec 4) : persCodeOf c (persKeyOf c x) = x := by
  obtain ⟨i, hk, hc⟩ := h.persKeyOf_index x
  have := h.persCodeOf_index hk
  rw [hc] at this
  exact (Option.some.inj this).symm

/-- The key of the code of a key is that key. -/
theorem CfgFacts.persKeyOf_persCodeOf (h : CfgFacts c) {i : Nat} {f : Filter} (hi : persKeys[i]? = some f) :
    persKeyOf c (persCodeOf c f) = f := by
  obtain ⟨j, hk, hc⟩ := h.persKeyOf_index (persCodeOf c f)
  rw [h.persCode_index_unique hc (h.persCodeOf_index hi), hi] at hk
  exact (Option.some.inj hk).symm

/-- A listed count is its own key. -/
theorem filterKey_count {n : Nat} (hn : n ∈ persCounts) : filterKey (.count (n : Q)) = some (.count n) := by
  have h0 : ¬ (n : Q) = 0 := by
    rw [Nat.cast_eq_zero]
    rintro rfl
    exact absurd hn (by decide)
  have hf : (persCounts.find? fun k : Nat => decide ((Nat.cast k : Q) = (n : Q))) = some n := by
    simp only [Nat.cast_inj]
    revert hn
    simp only [persCounts, List.mem_cons, List.not_mem_nil, or_false]
    rintro (rfl | rfl | rfl | rfl | rfl | rfl | rfl | rfl | rfl | rfl | rfl | rfl | rfl | rfl | rfl) <;> rfl
  simp only [filterKey, if_neg h0, hf, Option.map_some]

/-! ### The fields under their masks (R25, R27) -/

/-- Placing the code a byte holds in its persistence field keeps exactly the bits of the field. -/
theorem CfgFacts.place_extract_pers (h : CfgFacts c) (b : Byte) :
    placeField c.mApers (((extractField c.mApers b).setWidth 4).setWidth 8) = b &&& c.mApers := by
  obtain ⟨i, hi, hm⟩ := h.persField
  rw [hm]
  revert b
  interval_cases i <;> decide +kernel

/-- Placing the code a byte holds in its gain field keeps exactly the bits of the field, and that code is below 4. -/
theorem CfgFacts.place_extract_gain (h : CfgFacts c) (b : Byte) :
    placeField c.mAgain (extractField c.mAgain b) = b &&& c.mAgain ∧ (extractField c.mAgain b).toNat < 4 := by
  obtain ⟨i, hi, hm⟩ := h.gainField
  rw [hm]
  revert b
  interval_cases i <;> decide +kernel

end Sys2Proof.Machine
end

