-- ==== Sys2Proof/Laws/PerInstr.lean ====
section
/-! SUPPORT. Statements made once per operation: how the operation is requested (R55 to R58, R146). -/

namespace Sys2Proof.Laws

/-- A well-formed operation has an item that requests it: a block operation a request whose selector is one of 0 to 20,
a pseudo-operation a Profile Service call. -/
def Encodes.Statement (i : Instr) : Prop :=
  i.wellFormed = true → ∃ item, encode i = some item ∧
    (if i.blockOperation then ∃ op ports, item = .request op ports ∧ op.toNat ≤ 20 else ∃ call, item = .service call)

/-- A request is made when its selector is one of 0 to 20. -/
theorem encodes_request {i : Instr} {op : BitVec 5} {ports : Ports} (hb : i.blockOperation = true)
    (h : encodeIssue i = .request op ports) (ho : op.toNat ≤ 20) : Encodes.Statement i := fun hw =>
  ⟨.request op ports, by rw [encode, if_pos hw, h], by rw [if_pos hb]; exact ⟨op, ports, rfl, ho⟩⟩

/-- A call is made for a pseudo-operation. -/
theorem encodes_service {i : Instr} {call : ServiceCall} (hb : i.blockOperation = false)
    (h : encodeIssue i = .service call) : Encodes.Statement i := fun hw =>
  ⟨.service call, by rw [encode, if_pos hw, h], by rw [hb]; exact ⟨call, rfl⟩⟩

theorem Encodes.encEnable (powerOn active wait interrupts : Bool) :
    Encodes.Statement (.encEnable powerOn active wait interrupts) :=
  encodes_request rfl rfl (by decide)

theorem Encodes.decEnable (byte : Byte) :
    Encodes.Statement (.decEnable byte) :=
  encodes_request rfl rfl (by decide)

theorem Encodes.encAtime (ms : TimeOperand) :
    Encodes.Statement (.encAtime ms) :=
  encodes_request rfl rfl (by decide)

theorem Encodes.decAtime (byte : Byte) :
    Encodes.Statement (.decAtime byte) :=
  encodes_request rfl rfl (by decide)

theorem Encodes.encWtime (ms : TimeOperand) :
    Encodes.Statement (.encWtime ms) :=
  encodes_request rfl rfl (by decide)

theorem Encodes.decWtime (byte : Byte) :
    Encodes.Statement (.decWtime byte) :=
  encodes_request rfl rfl (by decide)

theorem Encodes.fmtWtime (count : Int) (longFlag : Bool) :
    Encodes.Statement (.fmtWtime count longFlag) :=
  encodes_request rfl rfl (by decide)

theorem Encodes.encConfig (longFlag : Bool) :
    Encodes.Statement (.encConfig longFlag) :=
  encodes_request rfl rfl (by decide)

theorem Encodes.decConfig (byte : Byte) :
    Encodes.Statement (.decConfig byte) :=
  encodes_request rfl rfl (by decide)

theorem Encodes.encThresh (low high : Int) :
    Encodes.Statement (.encThresh low high) :=
  encodes_request rfl rfl (by decide)

theorem Encodes.decThresh (bytes : List Byte) :
    Encodes.Statement (.decThresh bytes) :=
  encodes_request rfl rfl (by decide)

theorem Encodes.encPers (filter : FilterOperand) :
    Encodes.Statement (.encPers filter) :=
  encodes_request rfl rfl (by decide)

theorem Encodes.decPers (byte : Byte) :
    Encodes.Statement (.decPers byte) :=
  encodes_request rfl rfl (by decide)

theorem Encodes.encGain (multiplier : Int) :
    Encodes.Statement (.encGain multiplier) :=
  encodes_request rfl rfl (by decide)

theorem Encodes.decGain (byte : Byte) :
    Encodes.Statement (.decGain byte) :=
  encodes_request rfl rfl (by decide)

theorem Encodes.decStatus (byte : Byte) :
    Encodes.Statement (.decStatus byte) :=
  encodes_request rfl rfl (by decide)

theorem Encodes.decSample (bytes : List Byte) :
    Encodes.Statement (.decSample bytes) :=
  encodes_request rfl rfl (by decide)

theorem Encodes.deriveMeasurement (clear red green blue : Word) :
    Encodes.Statement (.deriveMeasurement clear red green blue) :=
  encodes_request rfl rfl (by decide)

theorem Encodes.mkcmd (addressOrFunction : Option Int) (type : BitVec 2) (isCommand : Option Bool) :
    Encodes.Statement (.mkcmd addressOrFunction type isCommand) :=
  encodes_request rfl rfl (by decide)

theorem Encodes.tstepJump (low high sampleClear : Word) :
    Encodes.Statement (.tstepJump low high sampleClear) :=
  encodes_request rfl rfl (by decide)

theorem Encodes.tstepWalk (low high sampleClear : Word) :
    Encodes.Statement (.tstepWalk low high sampleClear) :=
  encodes_request rfl rfl (by decide)

theorem Encodes.rdProfile : Encodes.Statement .rdProfile := encodes_service rfl rfl

theorem Encodes.wrProfile (profile : PartialProfile) : Encodes.Statement (.wrProfile profile) := encodes_service rfl rfl

theorem Encodes.clrInt : Encodes.Statement .clrInt := encodes_service rfl rfl

theorem Encodes.wrThresh (low high : Int) : Encodes.Statement (.wrThresh low high) := encodes_service rfl rfl

theorem Encodes.rdThresh : Encodes.Statement .rdThresh := encodes_service rfl rfl

theorem Encodes.rdId : Encodes.Statement .rdId := encodes_service rfl rfl

theorem Encodes.rdStatus : Encodes.Statement .rdStatus := encodes_service rfl rfl

theorem Encodes.rdData : Encodes.Statement .rdData := encodes_service rfl rfl

end Sys2Proof.Laws
end

