-- ==== Sys2Proof/Laws/Step.lean ====
section
/-! SUPPORT. What a step does around the agent that moves: the choice of the agent, the queue, and the edge. -/

namespace Sys2Proof.Machine

/-! ### The output ports -/

@[simp] theorem State.settle_ok (s : State) (r : Result) : s.settle (.ok r) = s.accept r := rfl
@[simp] theorem State.settle_error (s : State) (e : OpError) : s.settle (.error e) = s.raise (.domain e) := rfl

/-! ### The edge (R156) -/

/-- All that the watcher can make of a step: nothing, an edge seen, or a pending edge ended by a clear. -/
theorem observeEdge_cases (b a : State) :
    observeEdge b a = a
      ∨ (observeEdge b a = a.setEdge true ∧ a.session.watcher = true ∧ a.lineLevel = true ∧ b.chip.latch = false)
      ∨ (observeEdge b a = a.setEdge false ∧ b.chip.latch = true ∧ a.chip.latch = false) := by
  unfold observeEdge
  split
  next h => simp only [Bool.and_eq_true, Bool.not_eq_true'] at h; exact .inr (.inl ⟨rfl, h.1.1, h.1.2, h.2⟩)
  next =>
    split
    next h => simp only [Bool.and_eq_true, Bool.not_eq_true'] at h; exact .inr (.inr ⟨rfl, h⟩)
    next => exact .inl rfl

/-- The edge is all that watching the line can change. -/
theorem observeEdge_eq (b a : State) : ∃ e, observeEdge b a = a.setEdge e := by
  rcases observeEdge_cases b a with h | h | h
  · exact ⟨a.session.edge, h⟩
  · exact ⟨true, h.1⟩
  · exact ⟨false, h.1⟩

@[simp] theorem observeEdge_cfg (b a : State) : (observeEdge b a).cfg = a.cfg := by
  obtain ⟨e, h⟩ := observeEdge_eq b a; rw [h]; rfl
@[simp] theorem observeEdge_out (b a : State) : (observeEdge b a).out = a.out := by
  obtain ⟨e, h⟩ := observeEdge_eq b a; rw [h]; rfl
@[simp] theorem observeEdge_err (b a : State) : (observeEdge b a).err = a.err := by
  obtain ⟨e, h⟩ := observeEdge_eq b a; rw [h]; rfl
@[simp] theorem observeEdge_chip (b a : State) : (observeEdge b a).chip = a.chip := by
  obtain ⟨e, h⟩ := observeEdge_eq b a; rw [h]; rfl
@[simp] theorem observeEdge_queue (b a : State) : (observeEdge b a).queue = a.queue := by
  obtain ⟨e, h⟩ := observeEdge_eq b a; rw [h]; rfl
@[simp] theorem observeEdge_job (b a : State) : (observeEdge b a).job = a.job := by
  obtain ⟨e, h⟩ := observeEdge_eq b a; rw [h]; rfl
@[simp] theorem observeEdge_events (b a : State) : (observeEdge b a).events = a.events := by
  obtain ⟨e, h⟩ := observeEdge_eq b a; rw [h]; rfl
@[simp] theorem observeEdge_log (b a : State) : (observeEdge b a).log = a.log := by
  obtain ⟨e, h⟩ := observeEdge_eq b a; rw [h]; rfl
@[simp] theorem observeEdge_schedule (b a : State) : (observeEdge b a).schedule = a.schedule := by
  obtain ⟨e, h⟩ := observeEdge_eq b a; rw [h]; rfl
@[simp] theorem observeEdge_answers (b a : State) : (observeEdge b a).answers = a.answers := by
  obtain ⟨e, h⟩ := observeEdge_eq b a; rw [h]; rfl
@[simp] theorem observeEdge_picks (b a : State) : (observeEdge b a).picks = a.picks := by
  obtain ⟨e, h⟩ := observeEdge_eq b a; rw [h]; rfl
@[simp] theorem observeEdge_interludes (b a : State) : (observeEdge b a).interludes = a.interludes := by
  obtain ⟨e, h⟩ := observeEdge_eq b a; rw [h]; rfl
@[simp] theorem observeEdge_draws (b a : State) : (observeEdge b a).draws = a.draws := by
  obtain ⟨e, h⟩ := observeEdge_eq b a; rw [h]; rfl
@[simp] theorem observeEdge_enableNow (b a : State) : (observeEdge b a).enableNow = a.enableNow := by
  obtain ⟨e, h⟩ := observeEdge_eq b a; rw [h]; rfl
@[simp] theorem observeEdge_bandNow (b a : State) : (observeEdge b a).bandNow = a.bandNow := by
  obtain ⟨e, h⟩ := observeEdge_eq b a; rw [h]; rfl
@[simp] theorem observeEdge_lineLevel (b a : State) : (observeEdge b a).lineLevel = a.lineLevel := by
  obtain ⟨e, h⟩ := observeEdge_eq b a; rw [h]; rfl
@[simp] theorem observeEdge_regByte (b a : State) (x : Nat) : (observeEdge b a).regByte x = a.regByte x := by
  obtain ⟨e, h⟩ := observeEdge_eq b a; rw [h]; rfl

/-- The watcher leaves a step alone that does not change the latch (R167, R185). -/
theorem observeEdge_same_latch {b a : State} (h : a.chip.latch = b.chip.latch) : observeEdge b a = a := by
  rcases observeEdge_cases b a with hc | ⟨-, -, hl, hb⟩ | ⟨-, hb, ha⟩
  · exact hc
  · simp only [State.lineLevel, Bool.and_eq_true] at hl
    rw [h, hb] at hl; exact absurd hl.1 Bool.false_ne_true
  · rw [h, hb] at ha; exact absurd ha Bool.noConfusion

/-- No edge is seen while the condition stays latched (R167, R185). -/
theorem observeEdge_latched {b a : State} (hb : b.chip.latch = true) (ha : a.chip.latch = true) :
    observeEdge b a = a := observeEdge_same_latch (ha.trans hb.symm)

/-- The watcher makes nothing of a step that leaves the chip as it was. -/
theorem observeEdge_same_chip {b a : State} (hr : a.chip = b.chip) : observeEdge b a = a :=
  observeEdge_same_latch (hr ▸ rfl)

/-- A clear ends a pending edge (R166). -/
theorem observeEdge_cleared {b a : State} (hb : b.chip.latch = true) (ha : a.chip.latch = false) :
    observeEdge b a = a.setEdge false := by
  simp [observeEdge, State.lineLevel, hb, ha]

/-- An edge is seen when the condition is newly latched on the line and the watcher is attached. -/
theorem observeEdge_newly_latched {b a : State} (hw : a.session.watcher = true) (ha : a.lineLevel = true)
    (hb : b.chip.latch = false) : observeEdge b a = a.setEdge true := by
  simp [observeEdge, hw, ha, hb]

/-- An edge is pending after a step only while the condition is latched, if that held before and the step itself has
made none (R166). -/
theorem observeEdge_needs_latch {b a : State} (h : b.session.edge = true → b.chip.latch = true)
    (hk : a.session.edge = true → b.session.edge = true) :
    (observeEdge b a).session.edge = true → a.chip.latch = true := by
  intro he
  by_contra ha
  rw [Bool.not_eq_true] at ha
  cases hb : b.chip.latch with
  | true => rw [observeEdge_cleared hb ha] at he; exact Bool.noConfusion he
  | false =>
    rw [observeEdge_same_latch (ha.trans hb.symm)] at he
    exact Bool.noConfusion ((h (hk he)).symm.trans hb)

/-! ### The agent that moves -/

theorem step_of_turn {s : State} {u : Turn} {rest : List Turn} (h : s.schedule = u :: rest) :
    step s = watchLine s (runTurn u { s with schedule := rest }) := by
  simp only [step, scheduled, h]

theorem step_of_empty {s : State} (h : s.schedule = []) : step s = watchLine s (foreground s) := by
  simp only [step, scheduled, h]

/-- A step that answers a next state is a turn of one agent, followed by the watcher. -/
theorem step_next {s t : State} (h : step s = .next t) :
    ∃ r, scheduled s = .next r ∧ t = observeEdge s r := by
  unfold step watchLine at h
  split at h <;> simp_all

/-- A turn that leaves the chip as it was is the step. -/
theorem step_of_turn_same_chip {s t : State} {u : Turn} {rest : List Turn} (h : s.schedule = u :: rest)
    (ht : runTurn u { s with schedule := rest } = .next t) (hc : t.chip = s.chip) : step s = .next t := by
  rw [step_of_turn h, ht, watchLine, observeEdge_same_chip hc]

/-! ### The interrupt path's turn -/

/-- With no handler in progress, a turn of the interrupt path enters the handler in the chip state R166 gives, or does
nothing. -/
theorem irqTurn_idle {s : State} (h : s.session.irq = none) :
    (irqTurn s = .next s.enterHandler ∧ s.session.watcher = true ∧ s.session.edge = true ∧ s.violationStands = true)
      ∨ (irqTurn s = .next s
          ∧ (s.session.watcher = false ∨ s.session.edge = false ∨ s.violationStands = false)) := by
  cases hw : s.session.watcher <;> cases he : s.session.edge <;> cases hv : s.violationStands <;>
    simp [irqTurn, h, hw, he, hv]

/-! ### Runs -/

theorem run_next (M : Host.Core) {n : Nat} {s t : M.State} (h : M.step s = .next t) :
    M.run (n + 1) s = M.run n t := by
  rw [Host.Core.run, h]

/-- A run begins with a step. -/
theorem core_run_next {n : Nat} {s t : State} (h : step s = .next t) : core.run (n + 1) s = core.run n t :=
  run_next core h

end Sys2Proof.Machine
end

