-- ==== Sys2Proof/Tests/Slice0.lean ====
section
/-! SUPPORT. Own tests: the checks of WellFormed, the selectors, one step of each operation on the vectors of
95_test_vectors.md, and for every statement a state and operands that meet its premises. -/

namespace Sys2Proof.Tests

open Sys2Proof.Machine

-- One test at a time: tests that the kernel evaluates would otherwise wait for each other on many threads.
set_option Elab.async false

/-! ### Helpers -/

/-- The outcome is a next state of which the test holds. -/
def nextIs (r : Res) (p : State → Bool) : Bool :=
  match r with
  | .next s => p s
  | .fault _ => false
  | .refused _ => false

/-- The outcome is a next state that shows this result and no error. -/
def gives (r : Res) (x : Result) : Bool := nextIs r fun s => decide (s.out = some x) && decide (s.err = none)

/-- The outcome is a next state that shows this error of a block operation and no new result. -/
def raises (r : Res) (cls : ErrorClass) (field : ErrorField) (value : ErrorValue) : Bool :=
  nextIs r fun s => decide (s.out = none) && decide (s.err = some (.domain { cls := cls, field := field, value := value }))

/-- The default profile with legal times, threshold 280 to 290, one cycle, gain 16, everything on. -/
def profile : PartialProfile :=
  { powerOn := some true, active := some true, wait := some true, interrupts := some true,
    integrationTimeMs := some (.finite 100), waitTimeMs := some (.finite 1000),
    threshold := some { low := 280, high := 290 }, filtering := some (.count 1), gain := some 16 }

/-- A profile that leaves everything out. -/
def emptyProfile : PartialProfile :=
  { powerOn := none, active := none, wait := none, interrupts := none, integrationTimeMs := none, waitTimeMs := none,
    threshold := none, filtering := none, gain := none }

/-- A configuration of the host. -/
def config : HostConfig :=
  { profile := profile, pollMode := .status, softwareInterrupt := false, startupClear := true, strategy := .jump,
    ledEnabled := true, ledDelayMs := none, lineEnabled := true, windowSource := .freshRead }

/-- A running session with the watcher attached. -/
def session : Session :=
  { Session.reset with
    lifecycle := .running, config := some config, profile := some (mergeProfile profile),
    window := some { low := 280, high := 290 }, bus := true, led := some true, line := true, watcher := true }

/-- The register file with the profile in it and a clear count of 300. -/
def registers : List Host.Cell :=
  [(0x00, 0x1B), (0x01, 0xD7), (0x03, 0xDE), (0x04, 0x18), (0x05, 0x01), (0x06, 0x22), (0x07, 0x01), (0x0C, 0x01),
   (0x0D, 0x02), (0x0F, 0x02), (0x13, 0x11), (0x14, 0x2C), (0x15, 0x01)]

/-- A running machine whose interrupt condition is latched. -/
def live : State :=
  { State.reset with chip := { reg := registers, latch := true, run := 3 }, session := session }

/-- The machine with this session, these agents to move and these answers. -/
def machine (n : Session) (schedule : List Turn) (answers : List Answer) : State :=
  { live with session := n, schedule := schedule, answers := answers }

/-- A session in setup: no timer, no watcher, no profile of its own yet. -/
def settingUp (l : Lifecycle) (bus : Bool) (p : Option ApplyPhase) : Session :=
  { Session.reset with lifecycle := l, config := some config, bus := bus, applying := p }

/-- A session that waits for its retry. -/
def waiting : Session := { settingUp .retryWaiting false none with retryTimer := some 1 }

/-- A stopped session. -/
def stopped : Session := settingUp .stopped false none

/-- A job with the threshold write and ENABLE left. -/
def thresholdJob : WriteJob :=
  { pending := [{ address := 4, type := 1, bytes := [1, 0, 2, 0] }], enable := { address := 0, type := 0, bytes := [0] } }

/-- A job with ENABLE alone left. -/
def enableJob : WriteJob := { thresholdJob with pending := [] }

/-- A controller result that the threshold encoder refuses (R132). -/
def refusedStep : ControllerStep := { newLow := 98302, newHigh := 32768, direction := .above, sampleClear := 0xFFFF }

/-- A sample. -/
def sample300 : Sample := { clear := 300, red := 50, green := 25, blue := 0 }

/-- The running machine with its condition not latched yet, at a repeated read built by hand, between whose first two
accesses an integration cycle with a sample above the window completes. -/
def rereading (cmd : Byte) (n : Nat) : State :=
  { live with
    chip := { live.chip with latch := false, run := 0 }
    queue := [.bus (.read cmd n)]
    interludes := [[.cycle 0x11 { sample300 with clear := 0x0505 } false]] }

/-- The latched machine with its edge not served yet. -/
def pending (schedule : List Turn) : State := machine { session with edge := true } schedule []

/-! ### WellFormed: an ill-formed term for each check -/

theorem test_wellFormed_refuses_nan : (Instr.encAtime .nan).wellFormed = false := by decide
theorem test_wellFormed_refuses_posInf : (Instr.encWtime .posInf).wellFormed = false := by decide
theorem test_wellFormed_refuses_negInf : (Instr.encWtime .negInf).wellFormed = false := by decide
theorem test_wellFormed_refuses_false : (Instr.encPers (.literal false)).wellFormed = false := by decide
theorem test_wellFormed_refuses_fraction : (Instr.encPers (.count (1 / 2))).wellFormed = false := by decide +kernel
theorem test_wellFormed_refuses_profile_time :
    (Instr.wrProfile { emptyProfile with integrationTimeMs := some .nan }).wellFormed = false := by decide
theorem test_wellFormed_refuses_profile_wait :
    (Instr.wrProfile { emptyProfile with waitTimeMs := some .posInf }).wellFormed = false := by decide
theorem test_wellFormed_refuses_profile_filter :
    (Instr.wrProfile { emptyProfile with filtering := some (.literal false) }).wellFormed = false := by decide
theorem test_wellFormed_takes_profile : (Instr.wrProfile profile).wellFormed = true := by decide +kernel
theorem test_encode_refuses_nan : encode (.encAtime .nan) = none := by decide

/-! ### Decoding: the selectors of R56 written out bit by bit -/

theorem test_decode_enable :
    decode (.request 0b00000#5 { Ports.zero with powerOn := true, interrupts := true })
        = .ok (.encEnable true false false true)
      ∧ decode (.request 0b00001#5 { Ports.zero with byte := 0x13 }) = .ok (.decEnable 0x13) := ⟨rfl, rfl⟩

theorem test_decode_timing :
    decode (.request 0b00010#5 { Ports.zero with ms := 154 }) = .ok (.encAtime (.finite 154))
      ∧ decode (.request 0b00011#5 { Ports.zero with byte := 0xC0 }) = .ok (.decAtime 0xC0)
      ∧ decode (.request 0b00100#5 { Ports.zero with ms := 1000 }) = .ok (.encWtime (.finite 1000))
      ∧ decode (.request 0b00101#5 { Ports.zero with byte := 0xDE }) = .ok (.decWtime 0xDE)
      ∧ decode (.request 0b00110#5 { Ports.zero with count := 34, longFlag := true }) = .ok (.fmtWtime 34 true)
      ∧ decode (.request 0b00111#5 { Ports.zero with longFlag := true }) = .ok (.encConfig true)
      ∧ decode (.request 0b01000#5 { Ports.zero with byte := 0xFD }) = .ok (.decConfig 0xFD) :=
  ⟨rfl, rfl, rfl, rfl, rfl, rfl, rfl⟩

theorem test_decode_threshold :
    decode (.request 0b01001#5 { Ports.zero with lowInt := -1, highInt := 65536 }) = .ok (.encThresh (-1) 65536)
      ∧ decode (.request 0b01010#5 { Ports.zero with bytes := [0x18, 0x01] }) = .ok (.decThresh [0x18, 0x01]) :=
  ⟨rfl, rfl⟩

theorem test_decode_enumerations :
    decode (.request 0b01011#5 { Ports.zero with filter := .literalTrue }) = .ok (.encPers (.literal true))
      ∧ decode (.request 0b01100#5 { Ports.zero with byte := 0xF5 }) = .ok (.decPers 0xF5)
      ∧ decode (.request 0b01101#5 { Ports.zero with multiplier := 60 }) = .ok (.encGain 60)
      ∧ decode (.request 0b01110#5 { Ports.zero with byte := 0x02 }) = .ok (.decGain 0x02) := ⟨rfl, rfl, rfl, rfl⟩

theorem test_decode_status_sample_measurement :
    decode (.request 0b01111#5 { Ports.zero with byte := 0x11 }) = .ok (.decStatus 0x11)
      ∧ decode (.request 0b10000#5 { Ports.zero with bytes := [0x64] }) = .ok (.decSample [0x64])
      ∧ decode (.request 0b10001#5 { Ports.zero with clear := 100, red := 50, green := 25, blue := 1 })
        = .ok (.deriveMeasurement 100 50 25 1) := ⟨rfl, rfl, rfl⟩

theorem test_decode_command_controller :
    decode (.request 0b10010#5 { Ports.zero with addressOrFunction := some 6, type := 0b11, isCommand := some false })
        = .ok (.mkcmd (some 6) 0b11 (some false))
      ∧ decode (.request 0b10011#5 { Ports.zero with low := 280, high := 290, sampleClear := 300 })
        = .ok (.tstepJump 280 290 300)
      ∧ decode (.request 0b10100#5 { Ports.zero with low := 280, high := 290, sampleClear := 300 })
        = .ok (.tstepWalk 280 290 300) := ⟨rfl, rfl, rfl⟩

theorem test_decode_services :
    decode (.service .rdProfile) = .ok .rdProfile ∧ decode (.service (.wrProfile profile)) = .ok (.wrProfile profile)
      ∧ decode (.service .clrInt) = .ok .clrInt ∧ decode (.service (.wrThresh 1 2)) = .ok (.wrThresh 1 2)
      ∧ decode (.service .rdThresh) = .ok .rdThresh ∧ decode (.service .rdId) = .ok .rdId
      ∧ decode (.service .rdStatus) = .ok .rdStatus ∧ decode (.service .rdData) = .ok .rdData :=
  ⟨rfl, rfl, rfl, rfl, rfl, rfl, rfl, rfl⟩

/-! ### The block operations on the vectors of 95_test_vectors.md -/

/-- T3. -/
theorem test_encEnable : gives (exec (.encEnable true true false true) State.reset) (.byte 0x13) = true := by decide
/-- T7 with the reserved bits of T9 set. -/
theorem test_decEnable :
    gives (exec (.decEnable 0xF7) State.reset)
      (.enableFlags { powerOn := true, active := true, wait := false, interrupts := true }) = true := by decide
/-- T17. -/
theorem test_encAtime : gives (exec (.encAtime (.finite 154)) State.reset) (.byte 0xC0) = true := by decide +kernel
/-- T20. -/
theorem test_encAtime_over :
    raises (exec (.encAtime (.finite (3084 / 5))) State.reset) .rangeError .integrationTimeMs
      (.time (.finite (3084 / 5))) = true := by decide +kernel
/-- T28. -/
theorem test_decAtime :
    gives (exec (.decAtime 0xC0) State.reset)
      (.integrationTiming { cycles := 64, maxCount := 65536, timeMs := 768 / 5 }) = true := by decide +kernel
/-- T34. -/
theorem test_encWtime_short :
    gives (exec (.encWtime (.finite (3072 / 5))) State.reset) (.byteAndLongFlag 0x00 false) = true := by
  decide +kernel
/-- T37. -/
theorem test_encWtime_long : gives (exec (.encWtime (.finite 1000)) State.reset) (.byteAndLongFlag 0xDE true) = true := by
  decide +kernel
/-- T39f. -/
theorem test_decWtime :
    gives (exec (.decWtime 0xDE) State.reset) (.waitTiming { wtime := 0xDE, count := 34 }) = true := by decide
/-- T39h. -/
theorem test_fmtWtime : gives (exec (.fmtWtime 34 true) State.reset) (.timeMs (4896 / 5)) = true := by decide +kernel
/-- T39k. -/
theorem test_encConfig : gives (exec (.encConfig true) State.reset) (.byte 0x02) = true := by decide
/-- T39l. -/
theorem test_decConfig : gives (exec (.decConfig 0xFD) State.reset) (.wlong false) = true := by decide
/-- T43. -/
theorem test_encThresh :
    gives (exec (.encThresh 0x1234 0xABCD) State.reset) (.bytes [0x34, 0x12, 0xCD, 0xAB]) = true := by decide +kernel
/-- T47. -/
theorem test_encThresh_range :
    raises (exec (.encThresh 98302 32768) State.reset) .rangeError .thresholdLow (.int 98302) = true := by
  decide +kernel
/-- T48d. -/
theorem test_decThresh :
    gives (exec (.decThresh [0x18, 0x01, 0x22, 0x01, 0x99]) State.reset) (.band { low := 280, high := 290 }) = true := by
  decide +kernel
/-- T48b. -/
theorem test_decThresh_short :
    raises (exec (.decThresh [0x18, 0x01, 0x22]) State.reset) .lengthError .threshold (.int 3) = true := by
  decide +kernel
/-- T50, the last column. -/
theorem test_encPers : gives (exec (.encPers (.count 60)) State.reset) (.byte 0x0F) = true := by decide +kernel
/-- T52. -/
theorem test_encPers_unlisted :
    raises (exec (.encPers (.count 4)) State.reset) .rangeError .filtering (.filter (.count 4)) = true := by
  decide +kernel
/-- T54. -/
theorem test_decPers : gives (exec (.decPers 0xF5) State.reset) (.filter (.count 10)) = true := by decide +kernel
/-- T56. -/
theorem test_encGain : gives (exec (.encGain 60) State.reset) (.byte 0x03) = true := by decide +kernel
/-- T57. -/
theorem test_encGain_unlisted : raises (exec (.encGain 2) State.reset) .rangeError .gain (.int 2) = true := by
  decide +kernel
/-- T59. -/
theorem test_decGain : gives (exec (.decGain 0xFF) State.reset) (.multiplier 60) = true := by decide +kernel
/-- T62. -/
theorem test_decStatus :
    gives (exec (.decStatus 0x10) State.reset)
      (.statusFlags { dataValid := false, thresholdViolation := true }) = true := by decide
/-- T66. -/
theorem test_decSample :
    gives (exec (.decSample [0x2C, 0x01, 0xFF, 0xFF, 0x00, 0x80, 0x01, 0x00]) State.reset)
      (.sample { clear := 300, red := 65535, green := 32768, blue := 1 }) = true := by decide +kernel
/-- T67. -/
theorem test_decSample_short :
    raises (exec (.decSample [1, 2, 3, 4, 5, 6, 7]) State.reset) .lengthError .sample (.int 7) = true := by
  decide +kernel
/-- T72 with blue 99 (25245 div 100): no clamp. -/
theorem test_derive :
    nextIs (exec (.deriveMeasurement 100 200 100 99) State.reset) (fun s =>
      match s.out with
      | some (.measurement m) => decide (m.rgb = { r := 510, g := 255, b := 252, zero := false })
      | _ => false) = true := by decide +kernel
/-- T70: clear alone decides. -/
theorem test_derive_dark :
    nextIs (exec (.deriveMeasurement 0 5 5 5) State.reset) (fun s =>
      match s.out with
      | some (.measurement m) =>
          decide (m.rgb = { r := 0, g := 0, b := 0, zero := true }) && decide (m.lux = .nan)
            && decide (m.ratio.r = 1 / 13107)
      | _ => false) = true := by decide +kernel
/-- T77d. -/
theorem test_mkcmd : gives (exec (.mkcmd (some 6) 0b11 none) State.reset) (.command 0xE6) = true := by decide +kernel
/-- T77i. -/
theorem test_mkcmd_reserved_type :
    raises (exec (.mkcmd (some 0) 0b10 none) State.reset) .rangeError .type (.int 2) = true := by decide +kernel
/-- T79. -/
theorem test_tstepJump :
    gives (exec (.tstepJump 2 8 0) State.reset)
      (.controllerStep { newLow := 0, newHigh := 3, direction := .below, sampleClear := 0 }) = true := by decide +kernel
/-- T99. -/
theorem test_tstepWalk :
    gives (exec (.tstepWalk 300 200 250) State.reset)
      (.controllerStep { newLow := 250, newHigh := 150, direction := .above, sampleClear := 250 }) = true := by
  decide +kernel
/-- T104. -/
theorem test_reserved_selector :
    raises (step (State.reset.withFetchWord 8 31)) .illegalOp .op (.int 31) = true := by decide +kernel

/-! ### The Profile Service, one step each (95_test_vectors.md, P1 to P7; the register bytes are `registers`) -/

/-- The block of the registers: WTIME 0xDE with the long flag is 979.2 ms. -/
theorem test_rdProfile :
    nextIs (exec .rdProfile live) (fun s =>
      match s.out with
      | some (.profileReading p) =>
          decide (p.waitTimeMs = 4896 / 5) && decide (p.threshold = { low := 280, high := 290 })
            && decide (p.filtering = .count 1) && decide (p.gain = 16) && p.status.thresholdViolation
      | _ => false) = true := by
  rw [exec, execRdProfile, rdProfile_ok ((cfgWellFormed_iff _).mp defaultCfg_wellFormed) rfl]
  decide +kernel

/-- The first write, with the environment picking the third component: the threshold registers. -/
theorem test_wrProfile_component :
    nextIs (exec (.wrProfile profile) { State.reset with picks := [2] }) (fun s =>
      decide (s.chip.reg = [(0x04, 0x18), (0x05, 0x01), (0x06, 0x22), (0x07, 0x01)]) && s.job.isSome) = true := by
  decide +kernel
/-- The documented default profile has no legal time (R138). -/
theorem test_wrProfile_default :
    raises (exec (.wrProfile emptyProfile) State.reset) .rangeError .integrationTimeMs (.time (.finite 0)) = true := by
  decide +kernel
theorem test_clrInt : nextIs (exec .clrInt live) (fun s => !s.chip.latch && s.chip.reg == registers) = true := by
  decide +kernel
theorem test_wrThresh :
    nextIs (exec (.wrThresh 295 305) State.reset) (fun s =>
      decide (s.chip.reg = [(0x04, 0x27), (0x05, 0x01), (0x06, 0x31), (0x07, 0x01)])) = true := by decide +kernel
theorem test_wrThresh_range :
    nextIs (exec (.wrThresh 98302 32768) live) (fun s => decide (s.chip = live.chip) && s.err.isSome) = true := by
  decide +kernel
theorem test_rdThresh : gives (exec .rdThresh live) (.band { low := 280, high := 290 }) = true := by decide +kernel
theorem test_rdThresh_short :
    raises (exec .rdThresh { live with answers := [.short 3] }) .lengthError .threshold (.int 3) = true := by
  decide +kernel
theorem test_rdId : gives (exec .rdId State.reset) (.byte 0x44) = true := by decide +kernel
theorem test_rdStatus :
    gives (exec .rdStatus live) (.statusFlags { dataValid := true, thresholdViolation := true }) = true := by
  rw [exec, execRdStatus, rdStatus_ok ((cfgWellFormed_iff _).mp defaultCfg_wellFormed) rfl]
  decide +kernel

theorem test_rdData :
    nextIs (exec .rdData live) (fun s =>
      match s.out with
      | some (.data x m) => decide (x = { clear := 300, red := 0, green := 0, blue := 0 }) && decide (m.raw = x)
      | _ => false) = true := by decide +kernel

/-! ### The session, one step each -/

theorem test_chip_latches_after_cycle :
    nextIs (step { live with chip := { live.chip with latch := false, run := 0 }, schedule := [.chip (.cycle 0x11 sample300 false)] })
      (fun s => s.chip.latch && decide (s.chip.run = 1) && s.session.edge) = true := by decide +kernel
theorem test_handler_starts_on_edge :
    nextIs (step { live with session := { session with edge := true }, schedule := [.irq] })
      (fun s => decide (s.session.irq = some .readBoth) && !s.session.edge) = true := by decide +kernel
/-- R166: a clear between edge and entry ends the edge, so that no handler starts; a masked violation bit keeps it. -/
theorem test_handler_needs_violation :
    nextIs (Sys2Proof.core.run 2 { pending [.foreground, .irq] with queue := [.issue (.service .clrInt)] })
        (fun s => !s.chip.latch && !s.session.edge && s.session.irq.isNone) = true
      ∧ nextIs (step (((pending [.irq]).setReg 0x00 0x0B).setReg 0x13 0x01))
        (fun s => s.chip.latch && s.session.edge && s.session.irq.isNone) = true := by decide +kernel
/-- R45: three accesses of CDATAL, of which the cycle changes the later two, and what it latches is seen. -/
theorem test_repeated_read :
    nextIs (step (rereading 0x94 3)) (fun s =>
      decide (s.out = some (.bytes [0x2C, 0x05, 0x05])) && s.chip.latch && s.session.edge) = true := by decide +kernel
/-- R45, R155: of three accesses of STATUS the first finds no violation, the later two the latched one. -/
theorem test_repeated_status (i : Nat) (hi : i < 3) :
    (statusFlags defaultCfg (((rereading 0x93 3).afterInterludes i).hostByte 0x13)).thresholdViolation = decide (0 < i) := by
  have hc : (((rereading 0x93 3).afterInterludes i).cfg) = defaultCfg := ((rereading 0x93 3).afterInterludes_keeps i).cfg
  have h : CfgFacts ((rereading 0x93 3).afterInterludes i).cfg := hc ▸ (cfgWellFormed_iff _).mp defaultCfg_wellFormed
  have hs := statusFlags_hostByte h
  rw [hc] at hs
  rw [show (0x13 : Nat) = defaultCfg.aStatus.toNat from rfl, hs]
  interval_cases i <;> decide +kernel
theorem test_identity_mismatch :
    nextIs (step { State.reset with
        session := { session with lifecycle := .verifyingIdentity, watcher := false }, chip := { Chip.reset with reg := [(0x12, 0x4D)] }
        schedule := [.setup] })
      (fun s => decide (s.session.lifecycle = .retryWaiting) && !s.session.bus && s.session.retryTimer.isSome) = true := by
  decide +kernel
/-- Power off: the count may be lost while the chip does not convert, and only then (log 42). -/
theorem test_forgetRun :
    nextIs (step { State.reset with chip := { Chip.reset with run := 2 }, schedule := [.chip .forgetRun] })
        (fun s => s.chip.run == 0) = true
      ∧ nextIs (step { live with schedule := [.chip .forgetRun] }) (fun s => s.chip.run == 3) = true := by decide +kernel
/-- V10 and R33: stop destroys the session. -/
theorem test_stop :
    nextIs (step { live with schedule := [.call .stop] }) (fun s => decide (s.session = stopped)) = true
      ∧ nextIs (step (machine waiting [.call .stop] [])) (fun s => decide (s.session = stopped)) = true := by
  decide +kernel
theorem test_failed_write_keeps_enable :
    nextIs (exec (.wrProfile profile) { live with
        job := some { pending := [], enable := { address := 0, type := 0, bytes := [0x00] } }, answers := [.fail [true]] })
      (fun s => decide (s.chip.reg = registers) && s.job.isNone && decide (s.err = some .transport)) = true := by
  decide +kernel

/-! ### Premises that can be met: for every statement with premises, a state and operands, clause by clause -/

theorem witness_DecodeEncodeRoundTrip :
    (Instr.encPers (.count 60)).wellFormed = true ∧ (Instr.encAtime (.finite (3084 / 5))).wellFormed = true
      ∧ (Instr.wrProfile profile).wellFormed = true := by decide +kernel

/-- Selectors 21 and 31, the ends of the reserved range, with the schedule at its end and with one that names the
foreground. -/
theorem witness_ReservedSelectorRaisesIllegalOp :
    (∃ s : State, s.schedule = [] ∧ s.queue = .issue (.request 21 Ports.zero) :: [] ∧ 21 ≤ (21#5).toNat)
      ∧ ∃ s : State, s.schedule.head? = some .foreground ∧ s.queue = .issue (.request 31 Ports.zero) :: []
        ∧ 21 ≤ (31#5).toNat :=
  ⟨⟨{ State.reset with queue := [.issue (.request 21 Ports.zero)] }, rfl, rfl, by decide⟩,
   ⟨State.reset.issueNext (.request 31 Ports.zero), rfl, rfl, by decide⟩⟩

/-- A schedule that names the foreground; `State.reset` with an item issued has the empty one. -/
theorem witness_StepRunsDecodedOperation :
    (State.reset.issueNext (.service .rdId)).schedule.head? = some .foreground
      ∧ (State.reset.issueNext (.service .rdId)).queue = .issue (.service .rdId) :: []
      ∧ decode (.service .rdId) = .ok .rdId ∧ Instr.wellFormed .rdId = true
      ∧ nextIs (exec .rdId State.reset) (fun _ => true) = true :=
  ⟨rfl, rfl, rfl, rfl, by decide +kernel⟩

theorem witness_BlockOperationsArePure :
    (Instr.encThresh 0 0).blockOperation = true ∧ (Instr.tstepWalk 0 0 0).blockOperation = true := by decide

/-- Well-formed parameters: the premise of EnableRoundTrip, DecPersTotal, PersistenceLaws, GainOperations, WaitTimeLaws
and every other statement over `cfgWellFormed`. -/
theorem witness_cfgWellFormed : cfgWellFormed State.reset.cfg = true ∧ cfgWellFormed live.cfg = true :=
  ⟨defaultCfg_wellFormed, defaultCfg_wellFormed⟩

/-- 2.4, just below it, just below 616.8, and 616.8. -/
theorem witness_EncAtimeQuantises :
    gives (exec (.encAtime (.finite (12 / 5))) live) (.byte 0xFF) = true
      ∧ gives (exec (.encAtime (.finite (30839 / 50))) State.reset) (.byte 0x00) = true
      ∧ raises (exec (.encAtime (.finite (239 / 100))) State.reset) .rangeError .integrationTimeMs
        (.time (.finite (239 / 100))) = true := by decide +kernel

/-- A legal time from 614.4 on, and two times in order with their bytes. -/
theorem witness_IntegrationTimeLaws :
    (12 / 5 : Q) ≤ 30839 / 50 ∧ (30839 / 50 : Q) < 3084 / 5 ∧ (3072 / 5 : Q) ≤ 30839 / 50
      ∧ encodeAtime (.finite (12 / 5)) = .ok 0xFF ∧ encodeAtime (.finite 100) = .ok 0xD7 :=
  ⟨by norm_num, by norm_num, by norm_num, by decide +kernel, by decide +kernel⟩

/-- 614.4, just above it, just below 7401.6, 7401.6 and 2.39. -/
theorem witness_EncWtimeChoosesRegime :
    gives (exec (.encWtime (.finite (3072 / 5))) live) (.byteAndLongFlag 0x00 false) = true
      ∧ gives (exec (.encWtime (.finite (6145 / 10))) State.reset) (.byteAndLongFlag 0xEB true) = true
      ∧ gives (exec (.encWtime (.finite (74015 / 10))) State.reset) (.byteAndLongFlag 0x00 true) = true
      ∧ raises (exec (.encWtime (.finite (37008 / 5))) State.reset) .rangeError .waitTimeMs
        (.time (.finite (37008 / 5))) = true
      ∧ raises (exec (.encWtime (.finite (239 / 100))) State.reset) .rangeError .waitTimeMs
        (.time (.finite (239 / 100))) = true := by decide +kernel

theorem witness_NonFiniteTimesRejected :
    raises (exec (.encAtime .nan) State.reset) .rangeError .integrationTimeMs (.time .nan) = true
      ∧ raises (exec (.encAtime .posInf) State.reset) .rangeError .integrationTimeMs (.time .posInf) = true
      ∧ raises (exec (.encWtime .negInf) State.reset) .rangeError .waitTimeMs (.time .negInf) = true := by decide

/-- T36 and T35: 22 long steps come back, 21 do not; 7372.8 is the greatest wait there is. -/
theorem witness_WaitTimeLaws :
    encodeWtime (.finite (3168 / 5)) = .ok (0xEA, true) ∧ encodeWtime (.finite (36864 / 5)) = .ok (0x00, true)
      ∧ encodeWtime (.finite (3072 / 5)) = .ok (0x00, false)
      ∧ (22 : Int) ≤ 256 - ((0xEA#8).toNat : Int) ∧ ¬ (22 : Int) ≤ 256 - ((0xEB#8).toNat : Int) :=
  ⟨by decide +kernel, by decide +kernel, by decide +kernel, by decide, by decide⟩

/-- Both ends of the range for each bound, and the first values outside it. -/
theorem witness_EncThreshBytes :
    gives (exec (.encThresh 0xFFFF 0) State.reset) (.bytes [0xFF, 0xFF, 0x00, 0x00]) = true
      ∧ raises (exec (.encThresh (-1) 65536) State.reset) .rangeError .thresholdLow (.int (-1)) = true
      ∧ raises (exec (.encThresh 65536 0) State.reset) .rangeError .thresholdLow (.int 65536) = true
      ∧ raises (exec (.encThresh 0xFFFF 65536) State.reset) .rangeError .thresholdHigh (.int 65536) = true
      ∧ raises (exec (.encThresh 0 (-1)) State.reset) .rangeError .thresholdHigh (.int (-1)) = true := by
  decide +kernel

theorem witness_DecThreshWords : ([0x18, 0x01, 0x22] : List Byte).length < 4 ∧ ([] : List Byte).length < 4 := by decide

theorem witness_ThresholdRoundTrip :
    encodeThreshold 0 0xFFFF = .ok [0x00, 0x00, 0xFF, 0xFF] ∧ encodeThreshold 0xFFFF 0 = .ok [0xFF, 0xFF, 0x00, 0x00]
      ∧ ([0x18, 0x01, 0x22, 0x01] : List Byte).length = 4 :=
  ⟨by decide +kernel, by decide +kernel, rfl⟩

/-- The three spellings of `every`, the ends of the listed counts, and operands that are none of them. -/
theorem witness_EncPersTable :
    cfgWellFormed live.cfg = true
      ∧ gives (exec (.encPers (.literal true)) live) (.byte 0x00) = true
      ∧ [1, 2, 3, 5, 10, 15, 20, 25, 30, 35, 40, 45, 50, 55, 60][14]? = some 60
      ∧ raises (exec (.encPers (.literal false)) State.reset) .rangeError .filtering (.filter (.literal false)) = true
      ∧ raises (exec (.encPers (.count (1 / 2))) State.reset) .rangeError .filtering (.filter (.count (1 / 2))) = true
      ∧ raises (exec (.encPers (.count 61)) State.reset) .rangeError .filtering (.filter (.count 61)) = true :=
  ⟨defaultCfg_wellFormed, by decide +kernel, rfl, by decide, by decide +kernel, by decide +kernel⟩

/-- A multiplier on the list and the one next to it. -/
theorem witness_GainOperations :
    ((60 : Int), (3 : Byte)) ∈ [((1 : Int), (0 : Byte)), (4, 1), (16, 2), (60, 3)] ∧ (59 : Int) ∉ ([1, 4, 16, 60] : List Int) := by
  decide

theorem witness_DecSampleFields : ([1, 2, 3, 4, 5, 6, 7] : List Byte).length < 8 := by decide

/-- The dark sample, a clear count of 1, and a channel equal to clear; also the premises of DerivedRgbRange. -/
theorem witness_DeriveResult : (0#16).toNat = 0 ∧ 0 < (1#16).toNat ∧ (1#16).toNat ≤ (1#16).toNat := by decide

theorem witness_MkcmdResult :
    gives (exec (.mkcmd (some 0x1F) 0b11 (some false)) live) (.command 0x7F) = true
      ∧ raises (exec (.mkcmd (some 0x20) 0b00 none) State.reset) .rangeError .addressOrFunction (.int 0x20) = true
      ∧ raises (exec (.mkcmd (some (-1)) 0b00 none) State.reset) .rangeError .addressOrFunction (.int (-1)) = true
      ∧ (0b10#2 ≠ State.reset.cfg.tRepeat ∧ 0b10#2 ≠ State.reset.cfg.tAutoinc ∧ 0b10#2 ≠ State.reset.cfg.tSpecial) := by
  decide +kernel

theorem witness_MkcmdFieldsReadBack : makeCommand defaultCfg (some 0x1F) 3 (some true) = .ok 0xFF := by decide +kernel

/-- On each bound, and one outside it on either side. -/
theorem witness_JumpRecentres_WalkShifts :
    ((280#16).toNat ≤ (280#16).toNat ∧ (280#16).toNat ≤ (290#16).toNat ∧ (290#16).toNat ≤ (290#16).toNat)
      ∧ (290#16).toNat < (291#16).toNat ∧ (279#16).toNat < (280#16).toNat := by decide

/-- A conventional window, a sample above it, no clamp; and one of width 1. -/
theorem witness_ConventionalWindowLaws :
    (280#16).toNat ≤ (290#16).toNat ∧ direction { low := 280, high := 290 } 300 ≠ .inside
      ∧ 0 ≤ ((300#16).toNat : Int) - halfRange { low := 280, high := 290 }
      ∧ ((300#16).toNat : Int) + halfRange { low := 280, high := 290 } ≤ 0xFFFF
      ∧ 0 ≤ ((280#16).toNat : Int) - halfRange { low := 280, high := 290 }
      ∧ (11#16).toNat ≤ (10#16).toNat + 1 ∧ direction { low := 10, high := 11 } 500 ≠ .inside := by decide +kernel

theorem witness_ReadOperationsFrame :
    Instr.rdData ∈ [Instr.rdProfile, .rdThresh, .rdId, .rdStatus, .rdData]
      ∧ nextIs (exec .rdData live) (fun _ => true) = true ∧ nextIs (exec .rdProfile live) (fun _ => true) = true
      ∧ nextIs (exec .rdData { live with answers := [.fail []] }) (fun t => t.err == some .transport) = true :=
  ⟨by simp, by decide +kernel, by decide +kernel, by decide +kernel⟩

/-- An acknowledged request, and a read cut short by one byte; interrupts enabled: the premises of
RdProfileDecodesRegisters, RdThreshReturnsWindow, RdIdAndRdStatus, RdDataReturnsSample and ClrIntClearsLatch. -/
theorem witness_reads :
    cfgWellFormed live.cfg = true ∧ live.answer = .ok ∧ ({ live with answers := [.short 3] } : State).answer = .short 3
      ∧ live.enableNow.interrupts = true := ⟨defaultCfg_wellFormed, rfl, rfl, by decide +kernel⟩

/-- A window at both ends of the range, and one just outside it. -/
theorem witness_WrThreshStoresWindow :
    nextIs (exec (.wrThresh 0 0xFFFF) live) (fun t => decide (t.bandNow = { low := 0, high := 0xFFFF })) = true
      ∧ nextIs (exec (.wrThresh 0 65536) live) (fun t => t.err.isSome && decide (t.chip = live.chip)) = true := by
  decide +kernel

theorem witness_WrProfileRejectsOmittedTimes :
    State.reset.job = none ∧ emptyProfile.integrationTimeMs = none
      ∧ raises (exec (.wrProfile { emptyProfile with integrationTimeMs := some (.finite (12 / 5)) }) State.reset)
        .rangeError .waitTimeMs (.time (.finite 0)) = true := ⟨rfl, rfl, by decide +kernel⟩

/-- A first step, with six writes to choose from, and a last one, with none left. -/
theorem witness_WrProfileIssuesOneWrite :
    nextIs (exec (.wrProfile profile) State.reset) (fun t => t.job.any fun j => j.pending.length == 5) = true
      ∧ jobOk live.cfg { pending := [], enable := { address := 0, type := 0, bytes := [0x1B] } } = true
      ∧ jobOk live.cfg { pending := [{ address := 4, type := 1, bytes := [1, 0, 2, 0] }],
                         enable := { address := 0, type := 0, bytes := [0x1B] } } = true := by decide +kernel

theorem witness_WrProfileRunStoresProfile :
    cfgWellFormed State.reset.cfg = true ∧ State.reset.schedule = [] ∧ State.reset.answers = []
      ∧ encodeAtime (mergeProfile profile).integrationTimeMs = .ok 0xD7
      ∧ encodeWtime (mergeProfile profile).waitTimeMs = .ok (0xDE, true)
      ∧ encodeThreshold (mergeProfile profile).threshold.low (mergeProfile profile).threshold.high
        = .ok [0x18, 0x01, 0x22, 0x01]
      ∧ encodePers State.reset.cfg (mergeProfile profile).filtering = .ok 0x01
      ∧ encodeGain State.reset.cfg (mergeProfile profile).gain = .ok 0x02 :=
  ⟨defaultCfg_wellFormed, rfl, rfl, by decide +kernel, by decide +kernel, by decide +kernel, by decide +kernel,
   by decide +kernel⟩

/-- A step that changes ENABLE, and a step whose write fails. -/
theorem witness_EnableWrittenLast :
    State.sound { live with job := some { pending := [], enable := { address := 0, type := 0, bytes := [0] } } } = true
      ∧ nextIs (exec (.wrProfile profile)
          { live with job := some { pending := [], enable := { address := 0, type := 0, bytes := [0] } } })
        (fun t => t.regByte 0 == 0x00 && live.regByte 0 == 0x1B) = true
      ∧ ({ live with answers := [.fail [true]] } : State).answer = .fail [true] :=
  ⟨by decide +kernel, by decide +kernel, rfl⟩

/-- A failed threshold write of which the first and the last byte landed; a job of WR_PROFILE whose picked write lands
in part, and one whose write of ENABLE fails. -/
theorem witness_FailedWriteLeavesOldOrNew :
    ({ live with answers := [.fail [true, false, false, true]] } : State).answer = .fail [true, false, false, true]
      ∧ encodeThreshold 0x1234 0xABCD = .ok [0x34, 0x12, 0xCD, 0xAB]
      ∧ nextIs (exec (.wrThresh 0x1234 0xABCD) { live with answers := [.fail [true, false, false, true]] })
        (fun t => decide (t.bandNow = { low := 0x0134, high := 0xAB22 })) = true
      ∧ jobOk live.cfg thresholdJob = true ∧ jobOk live.cfg enableJob = true
      ∧ thresholdJob.pending[live.pick % thresholdJob.pending.length]?.isSome = true
      ∧ nextIs (exec (.wrProfile profile) { live with job := some thresholdJob, answers := [.fail [false, true]] })
        (fun t => decide (t.bandNow = { low := 0x0018, high := 0x0122 })) = true :=
  ⟨rfl, by decide +kernel, by decide +kernel, by decide +kernel, by decide +kernel, by decide +kernel,
   by decide +kernel⟩

/-- The first transfer past the end, read and written; the type no rule describes, and those a primitive does not take;
a repeated write of two bytes; an auto-increment write that reaches the reserved 0x02 after ATIME, and one that starts
on the identity register; the same two by a repeated write; a function that is not the clear; a hand-built primitive
issued. -/
theorem witness_HandBuiltPrimitivesRefused :
    32 < (0x1F#5).toNat + 2 ∧ ¬ 32 < (0x1F#5).toNat + 1
      ∧ (0b10#2 ≠ defaultCfg.tAutoinc ∧ 0b10#2 ≠ defaultCfg.tRepeat ∧ 0b10#2 ≠ defaultCfg.tSpecial)
      ∧ (defaultCfg.tSpecial ≠ defaultCfg.tAutoinc ∧ defaultCfg.tSpecial ≠ defaultCfg.tRepeat)
      ∧ 1 < ([1, 2] : List Byte).length
      ∧ ((0x01#5).toNat + 0 ∈ hostWritten defaultCfg ∧ (0x01#5).toNat + 1 ∉ namedRegisters defaultCfg)
      ∧ ((0x12#5).toNat ∈ readOnly defaultCfg ∧ (0x02#5).toNat ∉ namedRegisters defaultCfg)
      ∧ (0x07#5) ≠ defaultCfg.fClear
      ∧ ({ live with queue := [.bus (.special 0xE6)] } : State).queue = .bus (.special 0xE6) :: []
      ∧ nextIs (step { live with queue := [.bus (.special 0xE6)] }) (fun t => !t.chip.latch) = true := by decide +kernel

/-- A sound machine that steps, at reset and with a latched interrupt, and one whose oldest item is hand-built while the
chip moves: also the premises of `ParametersNeverChange` and `SoundStepsAnswer`. -/
theorem witness_StepKeepsSound :
    State.reset.sound = true ∧ live.sound = true ∧ live.handBuilt = false ∧ nextIs (step live) (fun _ => true) = true
      ∧ nextIs (step { live with schedule := [.irq] }) (fun _ => true) = true
      ∧ State.sound { live with schedule := [.chip .forgetRun], queue := [.bus (.special 0)] } = true
      ∧ Turn.chip .forgetRun ≠ .foreground := by decide +kernel

/-- A step in which a data register changes, by a move of the chip and within a repeated read; a repeated read of STATUS
with and without a latched condition, and one with no interlude given. -/
theorem witness_ReadOnlyRegistersAreTheChips :
    State.sound { live with schedule := [.chip (.update 0x01 sample300)] } = true ∧ 0x16 ∈ readOnly live.cfg
      ∧ nextIs (step { live with schedule := [.chip (.update 0x01 sample300)] })
        (fun t => t.regByte 0x16 != live.regByte 0x16) = true
      ∧ (rereading 0x96 2).sound = true
      ∧ nextIs (step (rereading 0x96 2)) (fun t => t.regByte 0x16 != (rereading 0x96 2).regByte 0x16) = true
      ∧ commandByte live.cfg.aStatus live.cfg.tRepeat true = 0x93 ∧ (rereading 0x93 2).answer = .ok
      ∧ (rereading 0x93 2).enableNow.interrupts = true ∧ (rereading 0x93 2).chip.latch = false
      ∧ live.enableNow.interrupts = true ∧ live.chip.latch = true ∧ live.interludes = []
      ∧ 0x04 ∉ chipWritten live.cfg := by decide +kernel

/-- A repeated read of two bytes is the foreground's next move. -/
theorem witness_repeatsRead : (rereading 0x93 2).repeatsRead 2 := ⟨.inl rfl, 0x93, [], rfl, by decide +kernel⟩

/-- A step that sets the latch, by a move of the chip and within a repeated read, and one that clears it. -/
theorem witness_LatchSetByCompletedCycleOnly :
    nextIs (step { live with chip := { live.chip with latch := false }, schedule := [.chip (.cycle 0x11 sample300 false)] })
        (fun t => t.chip.latch) = true
      ∧ nextIs (step (rereading 0x93 2)) (fun t => t.chip.latch && !(rereading 0x93 2).chip.latch) = true
      ∧ nextIs (step { live with queue := [.issue (.service .clrInt)] }) (fun t => !t.chip.latch) = true := by
  decide +kernel

theorem witness_ComparatorCountsAndLatches :
    State.sound { live with schedule := [.chip (.cycle 0x11 sample300 false)] } = true
      ∧ live.enableNow = { powerOn := true, active := true, wait := true, interrupts := true }
      ∧ live.filterNow = .count 1 ∧ live.session.watcher = true
      ∧ nextIs (step { live with schedule := [.chip (.cycle 0x11 sample300 false)] }) (fun _ => true) = true := by
  decide +kernel

/-- A sound machine with a pending edge, interrupts enabled, whose handler starts; one with no edge, one with the latch
clear and one whose violation bit is masked away, in which it does not; a clear that ends the edge. -/
theorem witness_HandlerEntrySavesNothing :
    (pending [.irq]).sound = true ∧ (pending [.irq]).enableNow.interrupts = true
      ∧ (pending [.irq]).statusByte &&& live.cfg.mAint ≠ 0
      ∧ nextIs (step (pending [.irq])) (fun t => t.session.irq.isSome) = true
      ∧ session.edge = false ∧ session.irq = none
      ∧ (((pending [.irq]).setReg 0x00 0x0B).setReg 0x13 0x01).statusByte &&& live.cfg.mAint = 0
      ∧ nextIs (step (pending [.irq]).clearLatch) (fun t => t.session.irq.isNone) = true
      ∧ nextIs (step { pending [] with queue := [.issue (.service .clrInt)] })
        (fun t => !t.chip.latch && !t.session.edge) = true := by decide +kernel

/-- A handler in progress on a sample of 300: above the window 280 to 290, above the inverted window 300 to 200 whose
result stays inside 16 bits, and inside the window 280 to 300. -/
theorem witness_ServiceNetEffect :
    State.sound (machine { session with irq := some .readBoth } [.irq, .irq, .irq, .irq] []) = true
      ∧ (let r := tstep config.strategy live.bandNow (le16 (live.regByte 0x14) (live.regByte 0x15))
         live.bandNow.low.toNat ≤ live.bandNow.high.toNat ∧ r.direction ≠ .inside)
      ∧ (let r := tstep .jump { low := 300, high := 200 } 300
         r.direction ≠ .inside ∧ 0 ≤ r.newLow ∧ r.newLow ≤ 0xFFFF ∧ 0 ≤ r.newHigh ∧ r.newHigh ≤ 0xFFFF)
      ∧ (live.setReg 0x06 0x2C).sound = true
      ∧ (tstep config.strategy (live.setReg 0x06 0x2C).bandNow 300).direction = .inside := by decide +kernel

/-- A write of ENABLE by hand. -/
def writeEnable (b : Byte) : HostCommand := .bus (.write 0x80 [b])

/-- The latched machine with its edge gone and software interrupts disabled is stuck, whoever moves, also when the
foreground masks interrupts and enables them again; its clear ends that. -/
theorem witness_HungPathStaysHung :
    State.sound { live with schedule := [.irq] } = true ∧ live.hung = true
      ∧ nextIs (step { live with schedule := [.irq] }) State.hung = true
      ∧ nextIs (step { live with schedule := [.chip (.cycle 0x11 sample300 true)] }) State.hung = true
      ∧ nextIs (step { live with queue := [writeEnable 0x0B] }) (fun t => t.hung && !t.lineLevel) = true
      ∧ nextIs (Sys2Proof.core.run 2 { live with queue := [writeEnable 0x0B, writeEnable 0x1B] })
        (fun t => t.hung && t.lineLevel) = true
      ∧ nextIs (step { live with queue := [.issue (.service .clrInt)] }) (fun t => !t.hung) = true := by
  decide +kernel

/-- A session in setup whose request fails, in each of the three states; a profile an encoder refuses; the retry timer;
`stop` in Running and in RetryWaiting; a stopped session that steps. -/
theorem witness_RetryAndStop :
    (machine (settingUp .connecting false none) [.setup] [.fail []]).sound = true
      ∧ (machine (settingUp .verifyingIdentity true none) [.setup] [.fail []]).sound = true
      ∧ (machine (settingUp .applyingProfile true (some (.write thresholdJob))) [.setup] [.fail [true]]).sound = true
      ∧ (encodeProfile live.cfg (mergeProfile profile)).toOption.isSome = true
      ∧ encodeProfile live.cfg (mergeProfile emptyProfile)
        = .error { cls := .rangeError, field := .integrationTimeMs, value := .time (.finite 0) }
      ∧ nextIs (step (machine waiting [.retryFires] [])) (fun t => t.session.lifecycle == .connecting) = true
      ∧ (machine waiting [.call .stop, .retryFires] []).sound = true
      ∧ (machine session [.call .stop, .pollFires] []).sound = true
      ∧ nextIs (step (machine stopped [.call .start] [])) (fun _ => true) = true :=
  ⟨by decide +kernel, by decide +kernel, by decide +kernel, by decide +kernel, by decide +kernel, by decide +kernel,
   by decide +kernel, by decide +kernel, by decide +kernel⟩

/-- A handler and a poll's service whose request fails, on a read and on a write the encoder takes; a poll whose two
reads fail; a result the encoder refuses, on both paths. -/
theorem witness_HandlerFailureEndsHandlerOnly :
    (machine { session with irq := some .readBoth } [.irq] [.fail []]).sound = true
      ∧ (machine { session with poll := some (.service .clear) } [.poll] [.fail []]).sound = true
      ∧ (machine { session with poll := some .read } [.poll] [.fail []]).sound = true
      ∧ encodeThreshold (tstep .jump { low := 280, high := 290 } 300).newLow
          (tstep .jump { low := 280, high := 290 } 300).newHigh = .ok [0x27, 0x01, 0x31, 0x01]
      ∧ encodeThreshold refusedStep.newLow refusedStep.newHigh
        = .error { cls := .rangeError, field := .thresholdLow, value := .int 98302 }
      ∧ nextIs (step (machine { session with irq := some (.write refusedStep) } [.irq] []))
        (fun t => t.session.irq.isNone && t.chip.latch) = true
      ∧ nextIs (step (machine { session with poll := some (.service (.rewrite refusedStep)) } [.poll] []))
        (fun t => t.session.poll.isNone && t.chip.latch) = true :=
  ⟨by decide +kernel, by decide +kernel, by decide +kernel, by decide +kernel, by decide +kernel, by decide +kernel,
   by decide +kernel⟩

/-- The session at reset given its configuration; ApplyingProfile with a component write, with ENABLE alone and with the
start-up clear left; the running session started. -/
theorem witness_LifecycleSetupAndStart :
    nextIs (Sys2Proof.core.run 2 { State.reset with schedule := [.call (.setupWithRetry config), .setup] })
        (fun t => t.session.lifecycle == .verifyingIdentity) = true
      ∧ (machine (settingUp .applyingProfile true none) [.setup] []).sound = true
      ∧ (machine (settingUp .applyingProfile true (some (.write thresholdJob))) [.setup] []).sound = true
      ∧ nextIs (step (machine (settingUp .applyingProfile true (some (.write enableJob))) [.setup] []))
        (fun t => decide (t.session.applying = some .clear) && t.regByte 0 == 0) = true
      ∧ nextIs (step (machine (settingUp .applyingProfile true (some .clear)) [.setup] []))
        (fun t => t.session.lifecycle == .running && !t.chip.latch) = true
      ∧ nextIs (Sys2Proof.core.run 2 { live with schedule := [.call .start, .pollFires] })
        (fun t => decide (t.session.poll = some .read)) = true := by decide +kernel

/-- An identity that is the chip's and one that is not. -/
theorem witness_SetupVerifiesIdentity :
    State.reset.regByte State.reset.cfg.aId.toNat = State.reset.cfg.chipId
      ∧ ({ State.reset with chip := { Chip.reset with reg := [(0x12, 0x4D)] } } : State).regByte 0x12 ≠ 0x44
      ∧ nextIs (step { State.reset with
          session := { session with lifecycle := .verifyingIdentity, watcher := false }, schedule := [.setup] })
        (fun t => decide (t.session.lifecycle = .applyingProfile)) = true := by decide +kernel

/-- A poll at its data read, with what its own read saw. -/
def reading (soft violation : Bool) : State :=
  machine { session with
    config := some { config with softwareInterrupt := soft }
    poll := some (.readData (.status { dataValid := true, thresholdViolation := violation })) } [.poll] []

/-- A poll that saw a violation, with software interrupts enabled and disabled, and one that saw none. -/
theorem witness_PollEmitsAndServes :
    nextIs (step (reading true true)) (fun t => decide (t.session.poll = some (.service (.readThreshold 300)))) = true
      ∧ nextIs (step (reading false true)) (fun t => t.session.poll.isNone) = true
      ∧ nextIs (step (reading true false)) (fun t => t.session.poll.isNone) = true := by decide +kernel

end Sys2Proof.Tests
end

section
/-! PROOFS. The parameter record is fixed for good (R9, R15): no update of the state writes it, so no bus primitive, no
action of the Profile Service, no agent's turn and no step does. `KeepsCfg` says so of a result reached from a state, and
the lemmas below carry it from the primitives up to `step`, in the order of the definitions. No parameter record is
assumed well-formed, so the hand-built primitives and every stop are included. -/

namespace Sys2Proof.Machine

variable {α β : Type}

/-! ### The parameters along an action and along a step -/

/-- Wherever an action begun in `s` hands back a state, the parameters are those of `s`. -/
def Slice.KeepsCfg (x : Slice α) (s : State) : Prop := x.Ends fun t => t.cfg = s.cfg

/-- If a step or turn begun in `s` answers a next state, the parameters are those of `s`. -/
def Res.KeepsCfg (r : Res) (s : State) : Prop := ∀ t, r = .next t → t.cfg = s.cfg

@[simp] theorem Slice.keepsCfg_ok {a : α} {s t : State} : (Slice.ok a t).KeepsCfg s ↔ t.cfg = s.cfg := Iff.rfl
@[simp] theorem Slice.keepsCfg_fail {f : Failure} {s t : State} :
    (Slice.fail f t : Slice α).KeepsCfg s ↔ t.cfg = s.cfg := Iff.rfl
@[simp] theorem Slice.keepsCfg_fault {r : Fault} {s : State} : (Slice.fault r : Slice α).KeepsCfg s := trivial
@[simp] theorem Slice.keepsCfg_refused {r : Refusal} {s : State} : (Slice.refused r : Slice α).KeepsCfg s := trivial

@[simp] theorem Res.keepsCfg_next {s t : State} : Res.KeepsCfg (.next t) s ↔ t.cfg = s.cfg :=
  ⟨fun h => h t rfl, fun h u hu => by cases hu; exact h⟩
@[simp] theorem Res.keepsCfg_fault {f : Fault} {s : State} : Res.KeepsCfg (.fault f) s := fun _ h => nomatch h
@[simp] theorem Res.keepsCfg_refused {f : Refusal} {s : State} : Res.KeepsCfg (.refused f) s := fun _ h => nomatch h

/-- An action that keeps the parameters may be followed by others that do. -/
theorem Slice.KeepsCfg.bind {x : Slice α} {k : α → State → Slice β} {s : State} (hx : x.KeepsCfg s)
    (hk : ∀ a t, (k a t).KeepsCfg t) : (x.bind k).KeepsCfg s :=
  Slice.Ends.bind hx fun a t ht => (hk a t).imp fun _ hu => hu.trans ht

theorem Slice.ofExcept_keepsCfg (x : Except OpError α) (s : State) : (Slice.ofExcept x s).KeepsCfg s :=
  (Slice.ofExcept_answers (P := fun t => t.cfg = s.cfg) x rfl).ends

/-- An action that ends only in the answered state has written no parameter. -/
theorem Slice.Ends.keepsCfg {x : Slice α} {s : State} (h : x.Ends (· = s.answered)) : x.KeepsCfg s :=
  h.imp fun _ ht => ht ▸ s.answered_cfg

/-- Handing an action's value to the output ports writes no parameter. -/
theorem Slice.KeepsCfg.outcome {x : Slice α} {s : State} (h : x.KeepsCfg s) (f : α → Result) :
    Res.KeepsCfg (x.outcome f) s := by
  cases x with
  | ok a t => exact Res.keepsCfg_next.mpr h
  | fail e t => exact Res.keepsCfg_next.mpr h
  | fault r => exact Res.keepsCfg_fault
  | refused r => exact Res.keepsCfg_refused

/-! ### The bus (R40) -/

theorem State.answerRead_keepsCfg (s : State) (bs : List Byte) : (s.answerRead bs).KeepsCfg s :=
  (s.answerRead_answers bs).ends.keepsCfg

theorem State.answerWrite_keepsCfg (s : State) (a : Nat) (bs : List Byte) : (s.answerWrite a bs).KeepsCfg s :=
  (s.answerWrite_answers a bs).ends.imp fun t ht => by
    rcases ht with rfl | ⟨l, rfl⟩ <;> simp

theorem State.answerClear_keepsCfg (s : State) : s.answerClear.KeepsCfg s :=
  s.answerClear_answers.ends.imp fun t ht => by
    rcases ht with rfl | rfl <;> simp

/-- A read by hand, also a repeated one between whose accesses the chip acts (R45). -/
theorem busRead_keepsCfg (cmd : Byte) (n : Nat) (s : State) : (busRead cmd n s).KeepsCfg s := by
  unfold busRead
  split
  · simp
  · split
    · split
      · simp
      · exact s.answerRead_keepsCfg _
    · split
      · exact ((s.afterInterludes (n - 1)).answerRead_keepsCfg _).imp
          fun _ ht => ht.trans (s.afterInterludes_keeps (n - 1)).cfg
      · simp

theorem State.writeFrom_keepsCfg (s : State) (a : Nat) (bs : List Byte) : (s.writeFrom a bs).KeepsCfg s := by
  unfold State.writeFrom
  split
  · simp
  · exact s.answerWrite_keepsCfg a bs

theorem busWrite_keepsCfg (cmd : Byte) (bs : List Byte) (s : State) : (busWrite cmd bs s).KeepsCfg s := by
  unfold busWrite
  split
  · simp
  · split
    · split
      · simp
      · exact s.writeFrom_keepsCfg _ bs
    · split
      · split
        · simp
        · exact s.writeFrom_keepsCfg _ bs
      · simp

theorem busSpecial_keepsCfg (cmd : Byte) (s : State) : (busSpecial cmd s).KeepsCfg s := by
  unfold busSpecial
  split
  · simp
  · split
    · simp
    · split
      · simp
      · exact s.answerClear_keepsCfg

theorem writeRegs_keepsCfg (w : RegWrite) (s : State) : (writeRegs w s).KeepsCfg s :=
  (Slice.ofExcept_keepsCfg _ s).bind fun cmd t => busWrite_keepsCfg cmd w.bytes t

/-! ### The Profile Service -/

theorem wrThresh_keepsCfg (low high : Int) (s : State) : (wrThresh low high s).KeepsCfg s :=
  (Slice.ofExcept_keepsCfg _ s).bind fun _ t => writeRegs_keepsCfg _ t

theorem clrInt_keepsCfg (s : State) : (clrInt s).KeepsCfg s := by
  rw [clrInt, sendClear_eq]
  exact s.answerClear_keepsCfg

theorem continueJob_keepsCfg (job : WriteJob) (s : State) : (continueJob job s).KeepsCfg s := by
  unfold continueJob
  split
  · exact (writeRegs_keepsCfg _ s).bind fun _ _ => rfl
  · exact (writeRegs_keepsCfg _ s.picked).bind fun _ _ => rfl

theorem advanceJob_keepsCfg (job : WriteJob) (s : State) : Res.KeepsCfg (advanceJob job s) s := by
  have h := continueJob_keepsCfg job s
  unfold advanceJob
  split <;> simp_all

theorem execWrProfile_keepsCfg (profile : PartialProfile) (s : State) : Res.KeepsCfg (execWrProfile profile s) s := by
  unfold execWrProfile
  split
  · exact advanceJob_keepsCfg _ s
  · split
    · simp
    · exact advanceJob_keepsCfg _ s

/-! ### The operations -/

@[simp] theorem State.settle_cfg (s : State) (x : Except OpError Result) : (s.settle x).cfg = s.cfg := by
  cases x <;> rfl

/-- No operation writes the parameters: a block operation writes the ports alone (R13), a pseudo-operation goes over the
bus. -/
theorem exec_keepsCfg (i : Instr) (s : State) : Res.KeepsCfg (exec i s) s := by
  cases i with
  | rdProfile => exact (rdProfile_ends s).keepsCfg.outcome _
  | wrProfile profile => exact execWrProfile_keepsCfg profile s
  | clrInt => exact (clrInt_keepsCfg s).outcome _
  | wrThresh low high => exact (wrThresh_keepsCfg low high s).outcome _
  | rdThresh => exact (rdThresh_ends s).keepsCfg.outcome _
  | rdId => exact (rdId_ends s).keepsCfg.outcome _
  | rdStatus => exact (rdStatus_ends s).keepsCfg.outcome _
  | rdData => exact (rdData_ends s).keepsCfg.outcome _
  | encAtime | encWtime | encThresh | decThresh | encPers | encGain | decSample | mkcmd =>
    exact Res.keepsCfg_next.mpr (s.settle_cfg _)
  | encEnable | decEnable | decAtime | decWtime | fmtWtime | encConfig | decConfig | decPers | decGain | decStatus
  | deriveMeasurement | tstepJump | tstepWalk => exact Res.keepsCfg_next.mpr (s.accept_cfg _)

/-! ### The service sequence and its two paths (R157, R158) -/

theorem withBus_keepsCfg {x : Slice α} {s : State} (h : x.KeepsCfg s) : (withBus s x).KeepsCfg s := by
  unfold withBus
  split
  · exact h
  · simp

/-- The end of an activity's turn writes no parameter when keeping its progress writes none. -/
theorem Slice.KeepsCfg.endTurn {x : Slice (Option α)} {s : State} (h : x.KeepsCfg s) (who : Activity)
    {keep : State → Option α → State} (hk : ∀ t p, (keep t p).cfg = t.cfg) : Res.KeepsCfg (endTurn who x keep) s := by
  cases x with
  | ok p t => exact Res.keepsCfg_next.mpr ((hk t p).trans h)
  | fail f t => exact Res.keepsCfg_next.mpr ((hk t none).trans h)
  | fault r => exact Res.keepsCfg_fault
  | refused r => exact Res.keepsCfg_refused

theorem decideService_keepsCfg (who : Activity) (st : Strategy) (b : Band) (clear : Word) (s : State) :
    (decideService who st b clear s).KeepsCfg s := by
  unfold decideService
  split
  · split <;> simp
  · simp

theorem serviceSlice_keepsCfg (who : Activity) (st : Strategy) (p : ServicePhase) (s : State) :
    (serviceSlice who st p s).KeepsCfg s := by
  cases p with
  | readBoth =>
    simp only [serviceSlice]
    split
    · exact (rdThresh_ends s.picked).keepsCfg.bind fun _ _ => rfl
    · exact (rdData_ends s.picked).keepsCfg.bind fun _ _ => rfl
  | readSample b => exact (rdData_ends s).keepsCfg.bind fun d t => decideService_keepsCfg who st b d.1.clear t
  | readThreshold clear => exact (rdThresh_ends s).keepsCfg.bind fun b t => decideService_keepsCfg who st b clear t
  | write r => exact (wrThresh_keepsCfg r.newLow r.newHigh s).bind fun _ _ => rfl
  | rewrite r => exact (wrThresh_keepsCfg r.newLow r.newHigh s).bind fun _ _ => rfl
  | clear => exact (clrInt_keepsCfg s).bind fun _ _ => rfl

theorem irqTurn_keepsCfg (s : State) : Res.KeepsCfg (irqTurn s) s := by
  cases hp : s.session.irq with
  | some p =>
    simp only [irqTurn, hp]
    split
    · exact (withBus_keepsCfg (serviceSlice_keepsCfg _ _ p s)).endTurn .irq fun t p => t.setIrq_cfg p
    · simp
  | none => rcases irqTurn_idle hp with ⟨h, -⟩ | ⟨h, -⟩ <;> simp [h]

theorem afterData_keepsCfg (hc : HostConfig) (r : PollResult) (d : Sample × Measurement) (s : State) :
    (afterData hc r d s).KeepsCfg s := by
  simp only [afterData]
  split
  · split
    · exact (decideService_keepsCfg .poll hc.strategy _ d.1.clear ((s.setLed false).emit (.data d.2 r))).bind
        fun _ _ => rfl
    · simp
  · simp

theorem afterPollRead_keepsCfg (hc : HostConfig) (r : PollResult) (s : State) :
    (afterPollRead hc r s).KeepsCfg s := by
  unfold afterPollRead
  split <;> simp

theorem pollRead_keepsCfg (hc : HostConfig) (s : State) : (pollRead hc s).KeepsCfg s := by
  unfold pollRead
  split
  · exact (rdStatus_ends s).keepsCfg.bind fun _ _ => rfl
  · exact (rdProfile_ends s).keepsCfg.bind fun _ _ => rfl

theorem pollSlice_keepsCfg (hc : HostConfig) (p : PollPhase) (s : State) : (pollSlice hc p s).KeepsCfg s := by
  cases p with
  | read => exact (pollRead_keepsCfg hc s).bind (afterPollRead_keepsCfg hc)
  | ledDelay r => rfl
  | readData r => exact (rdData_ends s).keepsCfg.bind (afterData_keepsCfg hc r)
  | service q => exact (serviceSlice_keepsCfg .poll hc.strategy q s).bind fun _ _ => rfl

theorem pollTurn_keepsCfg (s : State) : Res.KeepsCfg (pollTurn s) s := by
  unfold pollTurn
  split
  · split
    · exact (withBus_keepsCfg (pollSlice_keepsCfg _ _ s)).endTurn .poll fun t p => t.setPoll_cfg p
    · simp
  · simp

@[simp] theorem pollFires_cfg (s : State) : (pollFires s).cfg = s.cfg := by
  unfold pollFires; split <;> rfl

/-! ### The lifecycle (R160 to R164) -/

@[simp] theorem connect_cfg (s : State) : (connect s).cfg = s.cfg := by
  unfold connect; split <;> rfl

@[simp] theorem acquireLed_cfg (hc : HostConfig) (s : State) : (acquireLed hc s).cfg = s.cfg := by
  unfold acquireLed
  split
  · split <;> rfl
  · rfl

@[simp] theorem acquireLine_cfg (hc : HostConfig) (s : State) : (acquireLine hc s).cfg = s.cfg := by
  unfold acquireLine
  split
  · split <;> rfl
  · rfl

@[simp] theorem identityConfirmed_cfg (hc : HostConfig) (s : State) : (identityConfirmed hc s).cfg = s.cfg :=
  (acquireLine_cfg hc (acquireLed hc s)).trans (acquireLed_cfg hc s)

theorem verifyIdentity_keepsCfg (hc : HostConfig) (s : State) : Res.KeepsCfg (verifyIdentity hc s) s := by
  have h := (rdId_ends s).keepsCfg
  unfold verifyIdentity
  split
  next b t ht =>
    rw [ht, Slice.keepsCfg_ok] at h
    rw [Res.keepsCfg_next]
    split <;> simp [h]
  all_goals simp_all

theorem applyWrites_keepsCfg (hc : HostConfig) (job : WriteJob) (s : State) :
    Res.KeepsCfg (applyWrites hc job s) s := by
  have h := continueJob_keepsCfg job s
  unfold applyWrites
  split
  next t ht =>
    rw [ht, Slice.keepsCfg_ok] at h
    rw [Res.keepsCfg_next]
    split <;> simp [h]
  all_goals simp_all

theorem applyClear_keepsCfg (hc : HostConfig) (s : State) : Res.KeepsCfg (applyClear hc s) s := by
  have h := clrInt_keepsCfg s
  unfold applyClear
  split <;> simp_all

theorem applyTurn_keepsCfg (hc : HostConfig) (s : State) : Res.KeepsCfg (applyTurn hc s) s := by
  unfold applyTurn
  split
  · exact applyWrites_keepsCfg hc _ s
  · exact applyClear_keepsCfg hc s
  · split
    · simp
    · exact applyWrites_keepsCfg hc _ s

theorem setupTurn_keepsCfg (s : State) : Res.KeepsCfg (setupTurn s) s := by
  unfold setupTurn
  split
  · simp
  next hc _ =>
    cases s.session.lifecycle with
    | connecting => simp
    | verifyingIdentity => exact verifyIdentity_keepsCfg hc s
    | applyingProfile => exact applyTurn_keepsCfg hc s
    | unconfigured | running | stopped | retryWaiting => simp

@[simp] theorem retryFires_cfg (s : State) : (retryFires s).cfg = s.cfg := by
  unfold retryFires; split <;> rfl

@[simp] theorem setupWithRetry_cfg (hc : HostConfig) (s : State) : (setupWithRetry hc s).cfg = s.cfg := by
  unfold setupWithRetry; split <;> rfl

@[simp] theorem startSession_cfg (s : State) : (startSession s).cfg = s.cfg := by
  unfold startSession; split <;> rfl

@[simp] theorem stopSession_cfg (s : State) : (stopSession s).cfg = s.cfg := by
  unfold stopSession; split <;> rfl

@[simp] theorem lifecycleCall_cfg (c : LifecycleCall) (s : State) : (lifecycleCall c s).cfg = s.cfg := by
  cases c with
  | setupWithRetry hc => exact setupWithRetry_cfg hc s
  | start => exact startSession_cfg s
  | stop => exact stopSession_cfg s

/-! ### The turns and the step -/

theorem busTurn_keepsCfg (b : BusRequest) (s : State) : Res.KeepsCfg (busTurn b s) s := by
  cases b with
  | read cmd n => exact (busRead_keepsCfg cmd n s).outcome _
  | write cmd bs => exact (busWrite_keepsCfg cmd bs s).outcome _
  | special cmd => exact (busSpecial_keepsCfg cmd s).outcome _

theorem Res.KeepsCfg.retireItem {r : Res} {s : State} (h : Res.KeepsCfg r s) (i : Instr) (rest : List HostCommand) :
    Res.KeepsCfg (retireItem i rest r) s := by
  cases r with
  | next t =>
    rw [Res.keepsCfg_next] at h
    simp only [Machine.retireItem, Res.keepsCfg_next]
    split <;> exact h
  | fault f => exact Res.keepsCfg_fault
  | refused f => exact Res.keepsCfg_refused

theorem foreground_keepsCfg (s : State) : Res.KeepsCfg (foreground s) s := by
  unfold foreground
  split
  · simp
  next b rest _ => exact busTurn_keepsCfg b { s with queue := rest }
  next item rest _ =>
    split
    · simp
    · exact (exec_keepsCfg _ s).retireItem _ rest

/-- Whichever agent moves (R6). -/
theorem runTurn_keepsCfg (u : Turn) (s : State) : Res.KeepsCfg (runTurn u s) s := by
  cases u with
  | foreground => exact foreground_keepsCfg s
  | call c => exact Res.keepsCfg_next.mpr (lifecycleCall_cfg c s)
  | setup => exact setupTurn_keepsCfg s
  | retryFires => exact Res.keepsCfg_next.mpr (retryFires_cfg s)
  | pollFires => exact Res.keepsCfg_next.mpr (pollFires_cfg s)
  | poll => exact pollTurn_keepsCfg s
  | irq => exact irqTurn_keepsCfg s
  | chip act => exact Res.keepsCfg_next.mpr (chipActs_keeps act s).cfg

theorem scheduled_keepsCfg (s : State) : Res.KeepsCfg (scheduled s) s := by
  unfold scheduled
  split
  · exact foreground_keepsCfg s
  next u rest _ => exact runTurn_keepsCfg u { s with schedule := rest }

/-- Settles O46: one agent moves, which keeps the parameters, and the watcher changes no more than the pending edge. -/
theorem parametersNeverChange : Obligations.ParametersNeverChange := by
  intro s t h
  obtain ⟨r, hr, rfl⟩ := step_next h
  calc (observeEdge s r).cfg = r.cfg := observeEdge_cfg s r
    _ = s.cfg := scheduled_keepsCfg s r hr

end Sys2Proof.Machine
end

section
/-! PROOFS. What an agent's turn keeps of the chip, the parameters and the foreground's job. `HostKeeps` says so of a turn
of the host, `BusKeeps` of an action over the bus, which leaves the session alone too; `RepeatedRead` says what the chip
may do within a repeated read built by hand (R45). The lemmas go from the primitives up to the step, in the order of the
definitions, and end in `scheduled_cases`: whoever moves, one of the three describes the outcome. -/

namespace Sys2Proof.Machine

variable {α β : Type}

/-- The foreground's job is sound (R139). -/
def State.jobSound (s : State) : Prop := ∀ job, s.job = some job → jobOk s.cfg job = true

/-- What every turn of the host keeps: the parameters, the registers it may not write, a latch that is not set, the
canonical form, and a sound job (R19, R28 to R30, R139, R155). -/
structure HostKeeps (s t : State) : Prop where
  cfg : t.cfg = s.cfg
  regs : ∀ a, a ∉ hostWritten s.cfg → t.regByte a = s.regByte a
  latch : t.chip.latch = true → s.chip.latch = true
  memWf : memWf s.cfg.resetReg s.chip.reg = true → memWf s.cfg.resetReg t.chip.reg = true
  job : CfgFacts s.cfg → s.jobSound → t.jobSound

/-- An action over the bus leaves the session alone too. -/
structure BusKeeps (s t : State) : Prop extends HostKeeps s t where
  session : t.session = s.session

variable {s t u : State}

/-- With the job over or as it was, only the chip has to be looked at. -/
theorem State.jobSound_of_job (hc : t.cfg = s.cfg) (hj : t.job = none ∨ t.job = s.job) (h : s.jobSound) :
    t.jobSound := by
  intro job hjob
  rcases hj with hj | hj
  · rw [hj] at hjob; exact nomatch hjob
  · rw [hc]; exact h job (hj ▸ hjob)

/-- A turn that leaves the parameters and the chip as they were, and the job or none of it. -/
theorem HostKeeps.of_chip (hc : t.cfg = s.cfg) (hch : t.chip = s.chip) (hj : t.job = none ∨ t.job = s.job) :
    HostKeeps s t where
  cfg := hc
  regs a _ := State.regByte_congr hc (congrArg Chip.reg hch) a
  latch h := hch ▸ h
  memWf h := hch ▸ h
  job _ := State.jobSound_of_job hc hj

theorem BusKeeps.of_chip (hc : t.cfg = s.cfg) (hch : t.chip = s.chip) (hj : t.job = none ∨ t.job = s.job)
    (hn : t.session = s.session) : BusKeeps s t := ⟨.of_chip hc hch hj, hn⟩

theorem HostKeeps.trans (h : HostKeeps s t) (k : HostKeeps t u) : HostKeeps s u where
  cfg := k.cfg.trans h.cfg
  regs a ha := (k.regs a (h.cfg ▸ ha)).trans (h.regs a ha)
  latch hl := h.latch (k.latch hl)
  memWf hm := h.cfg ▸ k.memWf (h.cfg ▸ h.memWf hm)
  job hc hj := k.job (h.cfg ▸ hc) (h.job hc hj)

theorem BusKeeps.trans (h : BusKeeps s t) (k : BusKeeps t u) : BusKeeps s u :=
  ⟨h.toHostKeeps.trans k.toHostKeeps, k.session.trans h.session⟩

theorem BusKeeps.refl (s : State) : BusKeeps s s := .of_chip rfl rfl (.inr rfl) rfl
theorem BusKeeps.answered (s : State) : BusKeeps s s.answered := .of_chip rfl rfl (.inr rfl) rfl
theorem BusKeeps.picked (s : State) : BusKeeps s s.picked := .of_chip rfl rfl (.inr rfl) rfl
theorem BusKeeps.accept (s : State) (r : Result) : BusKeeps s (s.accept r) := .of_chip rfl rfl (.inr rfl) rfl
theorem BusKeeps.raise (s : State) (f : Failure) : BusKeeps s (s.raise f) := .of_chip rfl rfl (.inr rfl) rfl
theorem BusKeeps.logged (s : State) (who : Activity) (f : Failure) : BusKeeps s (s.logged who f) :=
  .of_chip rfl rfl (.inr rfl) rfl
theorem BusKeeps.emitStep (s : State) (r : ControllerStep) : BusKeeps s (s.emitStep r) :=
  .of_chip rfl rfl (.inr rfl) rfl

/-- The foreground's job is over. -/
theorem BusKeeps.jobOver (s : State) : BusKeeps s { s with job := none } := .of_chip rfl rfl (.inl rfl) rfl

/-- The item in hand taken off the queue changes nothing that is looked at here. -/
theorem BusKeeps.dequeued (s : State) (rest : List HostCommand) : BusKeeps s { s with queue := rest } :=
  .of_chip rfl rfl (.inr rfl) rfl

/-- Nor does the schedule moving on. -/
theorem BusKeeps.scheduleMoved (s : State) (rest : List Turn) : BusKeeps s { s with schedule := rest } :=
  .of_chip rfl rfl (.inr rfl) rfl

/-! ### Actions and outcomes -/

/-- An action that keeps what a bus action keeps may be followed by others that do. -/
theorem Slice.Ends.bindKeeps {x : Slice α} {k : α → State → Slice β} (hx : x.Ends (BusKeeps s))
    (hk : ∀ a t, (k a t).Ends (BusKeeps t)) : (x.bind k).Ends (BusKeeps s) :=
  hx.bind fun a t ht => (hk a t).imp fun _ => ht.trans

theorem Slice.Ends.keepsAnswered {x : Slice α} (h : x.Ends (· = s.answered)) : x.Ends (BusKeeps s) :=
  h.imp fun _ ht => ht ▸ .answered s

theorem Slice.ofExcept_keeps (x : Except OpError α) (s : State) : (Slice.ofExcept x s).Ends (BusKeeps s) :=
  (Slice.ofExcept_answers x (BusKeeps.refl s)).ends

/-- If the outcome is a next state, `P` holds of it. -/
def Res.Ends (r : Res) (P : State → Prop) : Prop := ∀ t, r = .next t → P t

@[simp] theorem Res.ends_next {P : State → Prop} : Res.Ends (.next t) P ↔ P t :=
  ⟨fun h => h t rfl, fun h _ hu => by cases hu; exact h⟩
@[simp] theorem Res.ends_fault {P : State → Prop} (f : Fault) : Res.Ends (.fault f) P := fun _ h => nomatch h
@[simp] theorem Res.ends_refused {P : State → Prop} (f : Refusal) : Res.Ends (.refused f) P := fun _ h => nomatch h

theorem Res.Ends.imp {r : Res} {P Q : State → Prop} (h : Res.Ends r P) (hpq : ∀ t, P t → Q t) : Res.Ends r Q :=
  fun t ht => hpq t (h t ht)

/-- Handing an action's value to the output ports, where `P` does not look at them. -/
theorem Slice.Ends.outcome {x : Slice α} {P : State → Prop} (h : x.Ends P) (f : α → Result)
    (ha : ∀ t r, P t → P (t.accept r)) (hr : ∀ t e, P t → P (t.raise e)) : Res.Ends (x.outcome f) P := by
  cases x with
  | ok a t => exact Res.ends_next.mpr (ha t _ h)
  | fail e t => exact Res.ends_next.mpr (hr t e h)
  | fault r => exact Res.ends_fault r
  | refused r => exact Res.ends_refused r

theorem Slice.Ends.outcomeKeeps {x : Slice α} (h : x.Ends (BusKeeps s)) (f : α → Result) :
    Res.Ends (x.outcome f) (BusKeeps s) :=
  h.outcome f (fun t r ht => ht.trans (.accept t r)) (fun t e ht => ht.trans (.raise t e))

/-! ### The primitives (R40) -/

/-- A write to host-written registers inside the register space, be it acknowledged or failed halfway. -/
theorem State.answerWrite_keeps {a : Nat} {bs : List Byte} (hw : ∀ i < bs.length, a + i ∈ hostWritten s.cfg)
    (hin : a + bs.length ≤ 32) : (s.answerWrite a bs).Ends (BusKeeps s) := by
  have hreg : ∀ x, x ∉ hostWritten s.cfg → ¬ (a ≤ x ∧ x < a + bs.length) := fun x hx hr =>
    hx (by have := hw (x - a) (by omega); rwa [show a + (x - a) = x by omega] at this)
  refine (s.answerWrite_answers a bs).ends.imp fun t ht => (BusKeeps.answered s).trans ?_
  rcases ht with rfl | ⟨l, rfl⟩
  · refine ⟨⟨State.setRegs_cfg .., fun x hx => ?_, fun h => ?_, fun h => State.setRegs_memWf h hin, fun _ => ?_⟩, ?_⟩
    · rw [State.regByte_setRegs, if_neg (hreg x hx)]
    · rwa [State.setRegs_latch] at h
    · exact State.jobSound_of_job (State.setRegs_cfg ..) (.inr (State.setRegs_job ..))
    · exact State.setRegs_session ..
  · refine ⟨⟨State.landRegs_cfg .., fun x hx => ?_, fun h => ?_, fun h => State.landRegs_memWf h hin, fun _ => ?_⟩, ?_⟩
    · exact (State.regByte_landRegs _ a bs l x).resolve_right fun ⟨_, h1, h2, _⟩ => hreg x hx ⟨h1, h2⟩
    · rwa [State.landRegs_latch] at h
    · exact State.jobSound_of_job (State.landRegs_cfg ..) (.inr (State.landRegs_job ..))
    · exact State.landRegs_session ..

/-- A write that is not refused goes to host-written registers alone. -/
theorem hostWritten_of_forbiddenWrite {c : Cfg} {a n : Nat} (h : forbiddenWrite c a n = none) :
    ∀ i < n, a + i ∈ hostWritten c := by
  simp only [forbiddenWrite, List.find?_eq_none, List.mem_map, List.mem_range] at h
  intro i hi
  simpa using h (a + i) ⟨i, hi, rfl⟩

theorem State.writeFrom_keeps {a : Nat} {bs : List Byte} (hin : a + bs.length ≤ 32) :
    (s.writeFrom a bs).Ends (BusKeeps s) := by
  unfold State.writeFrom
  split
  · trivial
  next hf => exact State.answerWrite_keeps (hostWritten_of_forbiddenWrite hf) hin

theorem busWrite_keeps (cmd : Byte) (bs : List Byte) (s : State) : (busWrite cmd bs s).Ends (BusKeeps s) := by
  have ha := (cmdAddress cmd).isLt
  unfold busWrite
  split
  · trivial
  · split
    · split
      · trivial
      next hl => exact State.writeFrom_keeps (by omega)
    · split
      · split
        · trivial
        next hl => exact State.writeFrom_keeps (by omega)
      · trivial

theorem State.answerClear_keeps (s : State) : s.answerClear.Ends (BusKeeps s) :=
  s.answerClear_answers.ends.imp fun t ht => by
    refine (BusKeeps.answered s).trans ?_
    rcases ht with rfl | rfl
    · exact ⟨⟨rfl, fun _ _ => rfl, fun h => Bool.noConfusion h, id, fun _ => State.jobSound_of_job rfl (.inr rfl)⟩, rfl⟩
    · exact .refl _

theorem busSpecial_keeps (cmd : Byte) (s : State) : (busSpecial cmd s).Ends (BusKeeps s) := by
  unfold busSpecial
  split
  · trivial
  · split
    · trivial
    · split
      · trivial
      · exact s.answerClear_keeps

/-- What a repeated read of `n` bytes does to the machine: the chip may have acted between its accesses, and nothing else
has changed but counters and ports (R45; log 11). -/
structure RepeatedRead (n : Nat) (s t : State) : Prop extends ChipKeeps s t where
  session : t.session = s.session
  job : t.job = s.job
  still : s.interludes.take (n - 1) = [] → t.chip = s.chip
  latches : s.chip.latch = false → t.chip.latch = true →
    ∃ acts ∈ s.interludes.take (n - 1), ∃ status x m, .cycle status x m ∈ acts

/-- Without interludes the chip stays as it is. -/
theorem State.afterInterludes_still {k : Nat} (h : s.interludes.take k = []) :
    (s.afterInterludes k).chip = s.chip := by
  rcases List.take_eq_nil_iff.mp h with rfl | hi
  · rfl
  · rw [State.afterInterludes_none hi]

theorem RepeatedRead.afterInterludes (s : State) (n : Nat) : RepeatedRead n s (s.afterInterludes (n - 1)) := by
  obtain ⟨c, hc⟩ := s.afterInterludes_eq (n - 1)
  exact ⟨s.afterInterludes_keeps (n - 1), by rw [hc], by rw [hc], State.afterInterludes_still,
    State.afterInterludes_latches⟩

/-- What a repeated read has done is looked at in the parameters, the chip, the session and the job alone. -/
theorem RepeatedRead.congr {n : Nat} (h : RepeatedRead n s t) (hc : u.cfg = t.cfg) (hch : u.chip = t.chip)
    (hn : u.session = t.session) (hj : u.job = t.job) : RepeatedRead n s u where
  cfg := hc.trans h.cfg
  regs a ha := (State.regByte_congr hc (congrArg Chip.reg hch) a).trans (h.regs a ha)
  latch hl := hch ▸ h.latch hl
  memWf hf hm := hch ▸ h.memWf hf hm
  session := hn.trans h.session
  job := hj.trans h.job
  still hi := hch.trans (h.still hi)
  latches h0 h1 := h.latches h0 (hch ▸ h1)

/-- A read by hand is a snapshot, or a repeated read. -/
theorem busRead_ends (cmd : Byte) (n : Nat) (s : State) : (busRead cmd n s).Ends fun t =>
    BusKeeps s t ∨ cmdType cmd = s.cfg.tRepeat ∧ RepeatedRead n s t := by
  unfold busRead
  split
  · trivial
  · split
    · split
      · trivial
      · exact (s.answerRead_answers _).ends.imp fun t ht => .inl (ht ▸ .answered s)
    · split
      next hr =>
        refine ((s.afterInterludes (n - 1)).answerRead_answers _).ends.imp fun t ht => .inr ⟨hr, ?_⟩
        exact (RepeatedRead.afterInterludes s n).congr (ht ▸ rfl) (ht ▸ rfl) (ht ▸ rfl) (ht ▸ rfl)
      · trivial

/-! ### The Profile Service -/

theorem writeRegs_keeps (w : RegWrite) (s : State) : (writeRegs w s).Ends (BusKeeps s) :=
  (Slice.ofExcept_keeps _ s).bindKeeps fun cmd t => busWrite_keeps cmd w.bytes t

theorem wrThresh_keeps (low high : Int) (s : State) : (wrThresh low high s).Ends (BusKeeps s) :=
  (Slice.ofExcept_keeps _ s).bindKeeps fun _ t => writeRegs_keeps _ t

theorem clrInt_keeps (s : State) : (clrInt s).Ends (BusKeeps s) := by
  rw [clrInt, sendClear_eq]
  exact s.answerClear_keeps

theorem continueJob_keeps (job : WriteJob) (s : State) : (continueJob job s).Ends (BusKeeps s) := by
  unfold continueJob
  split
  · exact (writeRegs_keeps _ s).bindKeeps fun _ t => BusKeeps.refl t
  · refine ((writeRegs_keeps _ s.picked).imp fun _ => (BusKeeps.picked s).trans).bindKeeps fun _ t => BusKeeps.refl t

/-- What a write of a job leaves to be issued is the job less one of its component writes. -/
theorem continueJob_rest {job rest : WriteJob} (h : continueJob job s = .ok (some rest) t) :
    ∃ k, rest = { job with pending := job.pending.eraseIdx k } := by
  unfold continueJob at h
  split at h
  · cases hw : writeRegs job.enable s <;> simp [hw, Slice.bind] at h
  next w ws hp =>
    refine ⟨s.pick % (w :: ws).length, ?_⟩
    rw [hp]
    generalize writeRegs _ s.picked = x at h
    cases x <;> simp [Slice.bind] at h
    exact h.1.symm

/-- One write of a foreground WR_PROFILE (R139): the job goes on, sound as it was, or is over. -/
theorem advanceJob_keeps {job : WriteJob} (hjob : CfgFacts s.cfg → s.jobSound → jobOk s.cfg job = true) :
    Res.Ends (advanceJob job s) (BusKeeps s) := by
  have hk := continueJob_keeps job s
  unfold advanceJob
  split
  next t heq =>
    rw [heq] at hk
    exact Res.ends_next.mpr ((hk.trans (.jobOver t)).trans (.accept _ _))
  next rest t heq =>
    rw [heq] at hk
    obtain ⟨k, rfl⟩ := continueJob_rest heq
    refine Res.ends_next.mpr ⟨⟨hk.cfg, hk.regs, hk.latch, hk.memWf, fun hc hj => ?_⟩, hk.session⟩
    rintro _ ⟨⟩
    exact hk.cfg ▸ jobOk_eraseIdx (hjob hc hj) k
  next f t heq =>
    rw [heq] at hk
    exact Res.ends_next.mpr ((hk.trans (.jobOver t)).trans (.raise _ _))
  · exact Res.ends_fault _
  · exact Res.ends_refused _

theorem execWrProfile_keeps (profile : PartialProfile) (s : State) :
    Res.Ends (execWrProfile profile s) (BusKeeps s) := by
  unfold execWrProfile
  split
  next job hj => exact advanceJob_keeps fun _ h => h job hj
  · split
    · exact Res.ends_next.mpr (.raise s _)
    next job he => exact advanceJob_keeps fun hc _ => encodeProfile_jobOk hc he

/-! ### The operations -/

/-- A block operation computes a result or an error from its operands and the parameters, and settles it on the output
ports (R13, R148). -/
theorem exec_settles {i : Instr} (hb : i.blockOperation = true) :
    ∃ f : Cfg → Except OpError Result, ∀ s, exec i s = .next (s.settle (f s.cfg)) := by
  cases i with
  | encEnable p a w n => exact ⟨fun c => .ok (.byte (enableByte c ⟨p, a, w, n⟩)), fun _ => rfl⟩
  | decEnable b => exact ⟨fun c => .ok (.enableFlags (enableFlags c b)), fun _ => rfl⟩
  | encAtime ms => exact ⟨fun _ => (encodeAtime ms).map .byte, fun _ => rfl⟩
  | decAtime b => exact ⟨fun _ => .ok (.integrationTiming (decodeAtime b)), fun _ => rfl⟩
  | encWtime ms => exact ⟨fun _ => (encodeWtime ms).map fun w => .byteAndLongFlag w.1 w.2, fun _ => rfl⟩
  | decWtime b => exact ⟨fun _ => .ok (.waitTiming (decodeWtime b)), fun _ => rfl⟩
  | fmtWtime n l => exact ⟨fun _ => .ok (.timeMs (formatWtime n l)), fun _ => rfl⟩
  | encConfig l => exact ⟨fun c => .ok (.byte (encodeConfig c l)), fun _ => rfl⟩
  | decConfig b => exact ⟨fun c => .ok (.wlong (decodeConfig c b)), fun _ => rfl⟩
  | encThresh lo hi => exact ⟨fun _ => (encodeThreshold lo hi).map .bytes, fun _ => rfl⟩
  | decThresh bs => exact ⟨fun _ => (decodeThreshold bs).map .band, fun _ => rfl⟩
  | encPers f => exact ⟨fun c => (encodePers c f).map .byte, fun _ => rfl⟩
  | decPers b => exact ⟨fun c => .ok (.filter (decodePers c b)), fun _ => rfl⟩
  | encGain m => exact ⟨fun c => (encodeGain c m).map .byte, fun _ => rfl⟩
  | decGain b => exact ⟨fun c => .ok (.multiplier (decodeGain c b)), fun _ => rfl⟩
  | decStatus b => exact ⟨fun c => .ok (.statusFlags (statusFlags c b)), fun _ => rfl⟩
  | decSample bs => exact ⟨fun _ => (decodeSample bs).map .sample, fun _ => rfl⟩
  | deriveMeasurement c r g b => exact ⟨fun _ => .ok (.measurement (derive ⟨c, r, g, b⟩)), fun _ => rfl⟩
  | mkcmd a ty k => exact ⟨fun c => (makeCommand c a ty k).map .command, fun _ => rfl⟩
  | tstepJump lo hi x => exact ⟨fun _ => .ok (.controllerStep (tstepJump ⟨lo, hi⟩ x)), fun _ => rfl⟩
  | tstepWalk lo hi x => exact ⟨fun _ => .ok (.controllerStep (tstepWalk ⟨lo, hi⟩ x)), fun _ => rfl⟩
  | rdProfile | wrProfile | clrInt | wrThresh | rdThresh | rdId | rdStatus | rdData => exact nomatch hb

theorem State.settle_keeps (s : State) (x : Except OpError Result) : BusKeeps s (s.settle x) := by
  cases x with
  | ok r => exact .accept s r
  | error e => exact .raise s _

theorem exec_keeps (i : Instr) (s : State) : Res.Ends (exec i s) (BusKeeps s) := by
  cases hb : i.blockOperation with
  | true =>
    obtain ⟨f, hf⟩ := exec_settles hb
    exact hf s ▸ Res.ends_next.mpr (s.settle_keeps _)
  | false =>
    cases i with
    | rdProfile => exact (rdProfile_ends s).keepsAnswered.outcomeKeeps _
    | wrProfile profile => exact execWrProfile_keeps profile s
    | clrInt => exact (clrInt_keeps s).outcomeKeeps _
    | wrThresh low high => exact (wrThresh_keeps low high s).outcomeKeeps _
    | rdThresh => exact (rdThresh_ends s).keepsAnswered.outcomeKeeps _
    | rdId => exact (rdId_ends s).keepsAnswered.outcomeKeeps _
    | rdStatus => exact (rdStatus_ends s).keepsAnswered.outcomeKeeps _
    | rdData => exact (rdData_ends s).keepsAnswered.outcomeKeeps _
    | _ => exact nomatch hb

/-! ### The foreground -/

theorem busTurn_ends (b : BusRequest) (s : State) : Res.Ends (busTurn b s) fun t =>
    BusKeeps s t ∨ ∃ cmd n, b = .read cmd n ∧ cmdType cmd = s.cfg.tRepeat ∧ RepeatedRead n s t := by
  cases b with
  | read cmd n =>
    refine ((busRead_ends cmd n s).outcome Result.bytes ?_ ?_).imp fun t ht => ht.imp_right fun ⟨h1, h2⟩ =>
      ⟨cmd, n, rfl, h1, h2⟩
    · exact fun t r ht => ht.imp (·.trans (.accept t r)) fun h => ⟨h.1, h.2.congr rfl rfl rfl rfl⟩
    · exact fun t e ht => ht.imp (·.trans (.raise t e)) fun h => ⟨h.1, h.2.congr rfl rfl rfl rfl⟩
  | write cmd bs => exact ((busWrite_keeps cmd bs s).outcomeKeeps _).imp fun _ => .inl
  | special cmd => exact ((busSpecial_keeps cmd s).outcomeKeeps _).imp fun _ => .inl

theorem Res.Ends.retireItem {r : Res} (h : Res.Ends r (BusKeeps s)) (i : Instr) (rest : List HostCommand) :
    Res.Ends (retireItem i rest r) (BusKeeps s) := by
  cases r with
  | next t =>
    have ht := Res.ends_next.mp h
    refine Res.ends_next.mpr ?_
    split
    · exact ht.trans (.dequeued t rest)
    · exact ht
  | fault f => exact Res.ends_fault f
  | refused f => exact Res.ends_refused f

theorem foreground_ends (s : State) : Res.Ends (foreground s) fun t =>
    BusKeeps s t ∨ ∃ cmd n rest, s.queue = .bus (.read cmd n) :: rest ∧ cmdType cmd = s.cfg.tRepeat
      ∧ RepeatedRead n s t := by
  unfold foreground
  split
  · exact Res.ends_next.mpr (.inl (.refl s))
  next b rest hq =>
    refine (busTurn_ends b { s with queue := rest }).imp fun t ht => ht.imp (BusKeeps.dequeued s rest).trans ?_
    rintro ⟨cmd, n, rfl, hr, h⟩
    exact ⟨cmd, n, rest, hq, hr, { h with }⟩
  next item rest hq =>
    split
    · exact Res.ends_next.mpr (.inl ((BusKeeps.dequeued s rest).trans (.raise _ _)))
    · exact ((exec_keeps _ s).retireItem _ rest).imp fun _ => .inl

end Sys2Proof.Machine
end

section
/-! PROOFS. The session through the turns of its agents (R33, R156 to R164): one lemma per move of the lifecycle that the
facts of a sound session carry over, and what the two service paths can do to the session, which is no move at all. -/

namespace Sys2Proof.Machine

variable {α : Type} {c : Cfg} {n m : Session}

/-! ### Outside `Running` nothing is at work -/

/-- No timer of a running session, no watcher, no edge, no poll and no handler, and neither profile nor window. -/
structure Session.Idle (n : Session) : Prop where
  pollTimer : n.pollTimer = none
  watcher : n.watcher = false
  edge : n.edge = false
  profile : n.profile = none
  window : n.window = none
  poll : n.poll = none
  irq : n.irq = none

theorem SessionFacts.idle (h : SessionFacts c n) (hs : n.lifecycle.started = false) : n.Idle := by
  have hr : n.lifecycle ≠ .running := fun e => by rw [e] at hs; exact Bool.noConfusion hs
  have hrb : (n.lifecycle == .running) = false := beq_false_of_ne hr
  have hw : n.watcher = false := Bool.eq_false_iff.mpr fun hw => hr (h.watcher hw).1
  have hstart : ¬ n.lifecycle.started = true := Bool.eq_false_iff.mp hs
  exact
    { pollTimer := Option.not_isSome_iff_eq_none.mp fun ht => hr (h.pollTimer ht)
      watcher := hw
      edge := Bool.eq_false_iff.mpr fun he => Bool.noConfusion (hw.symm.trans (h.edge he))
      profile := Option.isSome_eq_false_iff.mp (h.profile.trans hrb) |> Option.isNone_iff_eq_none.mp
      window := Option.isSome_eq_false_iff.mp (h.windowHeld.trans hrb) |> Option.isNone_iff_eq_none.mp
      poll := Option.not_isSome_iff_eq_none.mp fun ht => hstart (h.poll ht)
      irq := Option.not_isSome_iff_eq_none.mp fun ht => hstart (h.irq ht) }

/-- An idle session is sound when its handles, configuration, retry timer and setup progress suit its lifecycle state. -/
theorem SessionFacts.of_idle (hi : n.Idle) (hr : n.lifecycle ≠ .running) (bus : n.bus = n.lifecycle.holdsBus)
    (config : n.config.isSome = (n.lifecycle != .unconfigured)) (led : n.led.isSome = true → n.bus = true)
    (line : n.line = true → n.bus = true) (retryTimer : n.retryTimer.isSome = (n.lifecycle == .retryWaiting))
    (applying : ∀ p, n.applying = some p → n.lifecycle = .applyingProfile ∧
      (∀ hc, n.config = some hc → windowOk (mergeProfile hc.profile).threshold = true) ∧
      (∀ job, p = .write job → jobOk c job = true)) : SessionFacts c n := by
  have hrb : (n.lifecycle == .running) = false := beq_false_of_ne hr
  obtain ⟨h1, h2, h3, h4, h5, h6, h7⟩ := hi
  exact
    { bus := bus, config := config, led := led, line := line, retryTimer := retryTimer, applying := applying
      pollTimer := by simp [h1]
      watcher := by simp [h2]
      edge := by simp [h3]
      profile := by simp [h4, hrb]
      windowHeld := by simp [h5, hrb]
      poll := by simp [h6]
      irq := by simp [h7]
      window := by simp [h5] }

/-- Setup progress belongs to `ApplyingProfile`. -/
theorem SessionFacts.not_applying (h : SessionFacts c n) (hl : n.lifecycle ≠ .applyingProfile) : n.applying = none :=
  Option.eq_none_iff_forall_not_mem.mpr fun p hp => hl (h.applying p hp).1

/-- The handles of a session without the bus are gone. -/
theorem SessionFacts.released (h : SessionFacts c n) (hl : n.lifecycle.holdsBus = false) :
    n.bus = false ∧ n.led = none ∧ n.line = false := by
  have hb : n.bus = false := h.bus.trans hl
  exact ⟨hb, Option.not_isSome_iff_eq_none.mp fun hs => Bool.noConfusion (hb.symm.trans (h.led hs)),
    Bool.eq_false_iff.mpr fun hs => Bool.noConfusion (hb.symm.trans (h.line hs))⟩

/-- A session that holds the bus while a poll or handler is at work is running. -/
theorem SessionFacts.running_of_bus (h : SessionFacts c n) (hb : n.bus = true) (hs : n.lifecycle.started = true) :
    n.lifecycle = .running := by
  rw [h.bus] at hb
  cases hl : n.lifecycle <;> simp_all [Lifecycle.holdsBus, Lifecycle.started]

/-! ### The moves of the lifecycle (R160 to R164) -/

/-- `Unconfigured → Connecting`. -/
theorem SessionFacts.configured (h : SessionFacts c n) (hl : n.lifecycle = .unconfigured) (hc : HostConfig) :
    SessionFacts c { n with lifecycle := .connecting, config := some hc } := by
  obtain ⟨hb, hled, hline⟩ := h.released (hl ▸ rfl)
  have hi := h.idle (hl ▸ rfl)
  exact .of_idle { hi with } nofun hb rfl (by simp [hled]) (by simp [hline]) (h.retryTimer.trans (hl ▸ rfl))
    (by simp [h.not_applying (hl ▸ nofun)])

/-- `Connecting → VerifyingIdentity`. -/
theorem SessionFacts.connected (h : SessionFacts c n) (hl : n.lifecycle = .connecting) :
    SessionFacts c { n with lifecycle := .verifyingIdentity, bus := true } := by
  have hi := h.idle (hl ▸ rfl)
  exact .of_idle { hi with } nofun rfl (h.config.trans (hl ▸ rfl)) (fun _ => rfl) (fun _ => rfl)
    (h.retryTimer.trans (hl ▸ rfl)) (by simp [h.not_applying (hl ▸ nofun)])

/-- `VerifyingIdentity → ApplyingProfile`, with whichever peripherals were acquired. -/
theorem SessionFacts.confirmed (h : SessionFacts c n) (hl : n.lifecycle = .verifyingIdentity) (led : Option Bool)
    (line : Bool) : SessionFacts c { n with lifecycle := .applyingProfile, led := led, line := line } := by
  have hi := h.idle (hl ▸ rfl)
  have hb : n.bus = true := h.bus.trans (hl ▸ rfl)
  exact .of_idle { hi with } nofun hb (h.config.trans (hl ▸ rfl)) (fun _ => hb) (fun _ => hb)
    (h.retryTimer.trans (hl ▸ rfl)) (by simp [h.not_applying (hl ▸ nofun)])

/-- The lifecycle states in which the setup sequence is at work (R162). -/
def Lifecycle.inSetup : Lifecycle → Bool
  | .unconfigured => false
  | .connecting => true
  | .verifyingIdentity => true
  | .applyingProfile => true
  | .running => false
  | .stopped => false
  | .retryWaiting => false

theorem Lifecycle.not_started_of_inSetup {l : Lifecycle} (h : l.inSetup = true) : l.started = false := by
  cases l <;> simp_all [Lifecycle.inSetup, Lifecycle.started]

/-- A failure of the setup: `RetryWaiting`, with everything released and the retry timer armed. -/
theorem SessionFacts.failed (h : SessionFacts c n) (hl : n.lifecycle.inSetup = true) :
    SessionFacts c { n with
      lifecycle := .retryWaiting, bus := false, led := none, line := false, applying := none,
      retryTimer := some Config.retryInterval } := by
  have hi := h.idle (Lifecycle.not_started_of_inSetup hl)
  have hu : (n.lifecycle != .unconfigured) = true := by
    rw [bne_iff_ne]; intro hn; rw [hn] at hl; exact nomatch hl
  exact .of_idle { hi with } nofun rfl (h.config.trans hu) nofun nofun rfl nofun

/-- `RetryWaiting → Connecting`. -/
theorem SessionFacts.retried (h : SessionFacts c n) (hl : n.lifecycle = .retryWaiting) :
    SessionFacts c { n with lifecycle := .connecting, retryTimer := none } := by
  obtain ⟨hb, hled, hline⟩ := h.released (hl ▸ rfl)
  have hi := h.idle (hl ▸ rfl)
  exact .of_idle { hi with } nofun hb (h.config.trans (hl ▸ rfl)) (by simp [hled]) (by simp [hline]) rfl
    (by simp [h.not_applying (hl ▸ nofun)])

/-- Progress inside `ApplyingProfile`. -/
theorem SessionFacts.progressed (h : SessionFacts c n) (hl : n.lifecycle = .applyingProfile) {p : ApplyPhase}
    (hw : ∀ hc, n.config = some hc → windowOk (mergeProfile hc.profile).threshold = true)
    (hj : ∀ job, p = .write job → jobOk c job = true) : SessionFacts c { n with applying := some p } :=
  { h with applying := by rintro _ ⟨⟩; exact ⟨hl, hw, hj⟩ }

/-- `ApplyingProfile → Running`. -/
theorem SessionFacts.entered (h : SessionFacts c n) (hl : n.lifecycle = .applyingProfile) {p : Profile}
    (hw : windowOk p.threshold = true) :
    SessionFacts c { n with
      lifecycle := .running, applying := none, profile := some p, window := some p.threshold } := by
  have hi := h.idle (hl ▸ rfl)
  exact
    { bus := h.bus.trans (hl ▸ rfl), config := h.config.trans (hl ▸ rfl), led := h.led, line := h.line
      pollTimer := fun _ => rfl, retryTimer := h.retryTimer.trans (hl ▸ rfl)
      watcher := by simp [hi.watcher]
      edge := h.edge, profile := rfl, windowHeld := rfl, poll := fun _ => rfl, irq := fun _ => rfl
      window := by rintro _ ⟨⟩; exact hw
      applying := nofun }

/-- `start`: the poll timer runs and the watcher is attached to a held line. -/
theorem SessionFacts.startedUp (h : SessionFacts c n) (hl : n.lifecycle = .running) :
    SessionFacts c { n with pollTimer := some Config.pollInterval, watcher := n.line } :=
  { h with
    pollTimer := fun _ => hl
    watcher := fun hw => ⟨hl, hw⟩
    edge := fun he => (h.watcher (h.edge he)).2 }

/-- `stop`: the session is destroyed. -/
theorem SessionFacts.destroyed (h : SessionFacts c n) (hl : n.lifecycle = .running ∨ n.lifecycle = .retryWaiting) :
    SessionFacts c { n with
      lifecycle := .stopped, profile := none, window := none, bus := false, led := none, line := false,
      pollTimer := none, retryTimer := none, watcher := false, edge := false } where
  bus := rfl
  config := h.config.trans (by rcases hl with hl | hl <;> rw [hl] <;> rfl)
  led := nofun
  line := nofun
  pollTimer := nofun
  retryTimer := rfl
  watcher := nofun
  edge := nofun
  profile := rfl
  windowHeld := rfl
  poll _ := rfl
  irq _ := rfl
  window := nofun
  applying p hp := by
    have := (h.applying p hp).1
    rcases hl with hl | hl <;> exact absurd (hl.symm.trans this) nofun

/-! ### Edge, progress of the paths, and what a service may do -/

theorem SessionFacts.withEdge (h : SessionFacts c n) {e : Bool} (he : e = true → n.watcher = true) :
    SessionFacts c { n with edge := e } := { h with edge := he }

theorem SessionFacts.withIrq (h : SessionFacts c n) {p : Option ServicePhase}
    (hp : p.isSome = true → n.lifecycle.started = true) : SessionFacts c { n with irq := p } := { h with irq := hp }

theorem SessionFacts.withPoll (h : SessionFacts c n) {p : Option PollPhase}
    (hp : p.isSome = true → n.lifecycle.started = true) : SessionFacts c { n with poll := p } := { h with poll := hp }

/-- All that a step of the service or of the poll does to the session: a held LED is switched, and a window the encoder
took is adopted (R34, R157). -/
def Session.ServedTo (n m : Session) : Prop :=
  ∃ w l, m = { n with window := w, led := l } ∧ l.isSome = n.led.isSome ∧
    (w = n.window ∨ ∃ v, windowOk v = true ∧ w = some v)

theorem Session.ServedTo.refl (n : Session) : n.ServedTo n := ⟨n.window, n.led, rfl, rfl, .inl rfl⟩

theorem Session.ServedTo.led (n : Session) (f : Bool → Bool) : n.ServedTo { n with led := n.led.map f } :=
  ⟨n.window, _, rfl, Option.isSome_map, .inl rfl⟩

theorem Session.ServedTo.window (n : Session) {v : Window} (hv : windowOk v = true) :
    n.ServedTo { n with window := some v } := ⟨some v, n.led, rfl, rfl, .inr ⟨v, hv, rfl⟩⟩

theorem Session.ServedTo.lifecycle (h : n.ServedTo m) : m.lifecycle = n.lifecycle := by
  obtain ⟨w, l, rfl, -⟩ := h; rfl

theorem Session.ServedTo.edge (h : n.ServedTo m) : m.edge = n.edge := by
  obtain ⟨w, l, rfl, -⟩ := h; rfl

/-- A running session stays sound when it is served. -/
theorem SessionFacts.served (h : SessionFacts c n) (hr : n.lifecycle = .running) (hs : n.ServedTo m) :
    SessionFacts c m := by
  obtain ⟨w, l, rfl, hl, hw⟩ := hs
  have hwin : w.isSome = n.window.isSome ∧ ∀ v, w = some v → windowOk v = true := by
    rcases hw with rfl | ⟨v, hv, rfl⟩
    · exact ⟨rfl, h.window⟩
    · exact ⟨(h.windowHeld.trans (by rw [hr]; rfl)).symm, by rintro _ ⟨⟩; exact hv⟩
  exact { h with
    led := fun hs => h.led (hl ▸ hs)
    windowHeld := hwin.1.trans h.windowHeld
    window := hwin.2 }

/-! ### The windows the threshold encoder takes (R34, R92) -/

theorem windowOk_of_encode {w : Window} {bs : List Byte} (h : encodeThreshold w.low w.high = .ok bs) :
    windowOk w = true := by
  unfold encodeThreshold at h
  split at h
  · exact nomatch h
  next hlow =>
    split at h
    · exact nomatch h
    next hhigh => simpa [windowOk] using And.intro hlow hhigh

theorem windowOk_of_encodeProfile {p : Profile} {job : WriteJob} (h : encodeProfile c p = .ok job) :
    windowOk p.threshold = true := by
  obtain ⟨_, _, _, _, _, _, -, -, ht, -⟩ := encodeProfile_eq h
  exact windowOk_of_encode ht

end Sys2Proof.Machine
end

section
/-! PROOFS. Every agent's turn, in the order of the definitions of Services and Turns: `TurnKeeps` says what a turn of the
host keeps of the chip and of the session, and `scheduled_cases` lists all that a step can be. The invariant follows. -/

namespace Sys2Proof.Machine

variable {α β : Type} {s t u : State}

/-- What every turn of the host keeps: what `HostKeeps` says, a sound session, no edge of its own making, and `Stopped`
for good (R33, R156, R160 to R164). -/
structure TurnKeeps (s t : State) : Prop extends HostKeeps s t where
  facts : CfgFacts s.cfg → SessionFacts s.cfg s.session → SessionFacts s.cfg t.session
  edge : t.session.edge = true → s.session.edge = true
  stopped : s.session.lifecycle = .stopped → t.session.lifecycle = .stopped

/-- A turn that leaves the session alone. -/
theorem BusKeeps.turn (h : BusKeeps s t) : TurnKeeps s t :=
  ⟨h.toHostKeeps, fun _ hn => h.session ▸ hn, fun he => h.session ▸ he, fun hl => h.session ▸ hl⟩

theorem TurnKeeps.trans (h : TurnKeeps s t) (k : TurnKeeps t u) : TurnKeeps s u where
  toHostKeeps := h.toHostKeeps.trans k.toHostKeeps
  facts hc hn := h.cfg ▸ k.facts (h.cfg ▸ hc) (h.cfg ▸ h.facts hc hn)
  edge he := h.edge (k.edge he)
  stopped hl := k.stopped (h.stopped hl)

theorem TurnKeeps.refl (s : State) : TurnKeeps s s := (BusKeeps.refl s).turn

/-- A turn that changes the session alone. -/
theorem TurnKeeps.of_session {m : Session} (facts : SessionFacts s.cfg s.session → SessionFacts s.cfg m)
    (edge : m.edge = true → s.session.edge = true)
    (stopped : s.session.lifecycle = .stopped → m.lifecycle = .stopped) : TurnKeeps s { s with session := m } :=
  ⟨.of_chip rfl rfl (.inr rfl), fun _ => facts, edge, stopped⟩

/-! ### The service sequence (R158) -/

/-- What a step of the service or of the poll keeps. -/
structure ServiceKeeps (s t : State) : Prop extends HostKeeps s t where
  served : s.session.ServedTo t.session

theorem BusKeeps.serves (h : BusKeeps s t) : ServiceKeeps s t := ⟨h.toHostKeeps, h.session ▸ .refl _⟩

/-- What is served after an action over the bus is served from its start. -/
theorem BusKeeps.thenServes (h : BusKeeps s t) (k : ServiceKeeps t u) : ServiceKeeps s u :=
  ⟨h.toHostKeeps.trans k.toHostKeeps, h.session ▸ k.served⟩

theorem ServiceKeeps.thenBus (h : ServiceKeeps s t) (k : BusKeeps t u) : ServiceKeeps s u :=
  ⟨h.toHostKeeps.trans k.toHostKeeps, k.session.symm ▸ h.served⟩

/-- An action over the bus may be followed by one that serves. -/
theorem Slice.Ends.bindServes {x : Slice α} {k : α → State → Slice β} (hx : x.Ends (BusKeeps s))
    (hk : ∀ a t, (k a t).Ends (ServiceKeeps t)) : (x.bind k).Ends (ServiceKeeps s) := by
  cases x with
  | ok a t => exact (hk a t).imp fun _ => BusKeeps.thenServes hx
  | fail f t => exact BusKeeps.serves hx
  | fault r => trivial
  | refused r => trivial

theorem State.adoptWindow_serves (s : State) {r : ControllerStep} {bs : List Byte}
    (h : encodeThreshold r.newLow r.newHigh = .ok bs) : ServiceKeeps s (s.adoptWindow r) :=
  ⟨.of_chip rfl rfl (.inr rfl), .window _ (windowOk_of_encode (w := ⟨r.newLow, r.newHigh⟩) h)⟩

theorem State.setLed_serves (s : State) (lit : Bool) : ServiceKeeps s (s.setLed lit) :=
  ⟨.of_chip rfl rfl (.inr rfl), .led _ _⟩

theorem decideService_keeps (who : Activity) (st : Strategy) (b : Band) (clear : Word) (s : State) :
    (decideService who st b clear s).Ends (BusKeeps s) := by
  have hlog : BusKeeps s (s.picked.logged who .anomalousInterrupt) := (BusKeeps.picked s).trans (.logged _ _ _)
  unfold decideService
  split
  · split
    · exact hlog
    · exact hlog.trans (.emitStep _ _)
  · exact .refl s

theorem serviceSlice_serves (who : Activity) (st : Strategy) (p : ServicePhase) (s : State) :
    (serviceSlice who st p s).Ends (ServiceKeeps s) := by
  have hp := BusKeeps.picked s
  cases p with
  | readBoth =>
    simp only [serviceSlice]
    split
    · exact ((rdThresh_ends s.picked).keepsAnswered.imp fun _ => hp.trans).bindServes fun _ t => (BusKeeps.refl t).serves
    · exact ((rdData_ends s.picked).keepsAnswered.imp fun _ => hp.trans).bindServes fun _ t => (BusKeeps.refl t).serves
  | readSample b =>
    exact (rdData_ends s).keepsAnswered.bindServes fun _ t => (decideService_keeps who st b _ t).imp fun _ => (·.serves)
  | readThreshold clear =>
    exact (rdThresh_ends s).keepsAnswered.bindServes fun b t =>
      (decideService_keeps who st b clear t).imp fun _ => (·.serves)
  | write r =>
    rw [serviceSlice]
    cases he : encodeThreshold r.newLow r.newHigh with
    | error e => rw [wrThresh_error he]; exact (BusKeeps.refl s).serves
    | ok bs =>
      exact (wrThresh_keeps _ _ s).bindServes fun _ t => (t.adoptWindow_serves he).thenBus (.emitStep _ r)
  | rewrite r => exact (wrThresh_keeps _ _ s).bindServes fun _ t => (BusKeeps.emitStep t r).serves
  | clear => exact (clrInt_keeps s).bindServes fun _ t => (BusKeeps.refl t).serves

/-! ### The end of a turn of either path -/

/-- The end of an activity's turn, where `Q` does not look at the log. -/
theorem Slice.Ends.endTurn {x : Slice (Option α)} {P Q : State → Prop} (h : x.Ends P) (who : Activity)
    {keep : State → Option α → State} (hk : ∀ t p, P t → Q (keep t p)) (hl : ∀ t f, Q t → Q (t.logged who f)) :
    Res.Ends (endTurn who x keep) Q := by
  cases x with
  | ok p t => exact Res.ends_next.mpr (hk t p h)
  | fail f t => exact Res.ends_next.mpr (hl _ f (hk t none h))
  | fault r => exact Res.ends_fault r
  | refused r => exact Res.ends_refused r

/-- An activity is served while the bus is held; without it, nothing has changed (R164). -/
theorem withBus_serves {x : Slice α} (h : x.Ends (ServiceKeeps s)) :
    (withBus s x).Ends fun t => ServiceKeeps s t ∧ (s.session.bus = true ∨ t = s) := by
  unfold withBus
  split
  next hb => exact h.imp fun _ ht => ⟨ht, .inl hb⟩
  next => exact ⟨(BusKeeps.refl s).serves, .inr rfl⟩

/-- A session with a poll or handler at work stays sound when it is served. -/
theorem ServiceKeeps.facts (h : ServiceKeeps s t) (hb : s.session.bus = true ∨ t = s)
    (hn : SessionFacts s.cfg s.session) (hs : s.session.lifecycle.started = true) :
    SessionFacts s.cfg t.session := by
  rcases hb with hb | rfl
  · exact hn.served (hn.running_of_bus hb hs) h.served
  · exact hn

/-! ### The interrupt path (R156, R166, R167) -/

theorem State.setIrq_keeps (h : ServiceKeeps s t) (hb : s.session.bus = true ∨ t = s)
    (hi : s.session.irq.isSome = true) (p : Option ServicePhase) : TurnKeeps s (t.setIrq p) where
  toHostKeeps := h.toHostKeeps.trans (.of_chip rfl rfl (.inr rfl))
  facts _ hn := (h.facts hb hn (hn.irq hi)).withIrq fun _ => h.served.lifecycle ▸ hn.irq hi
  edge he := h.served.edge ▸ he
  stopped hl := h.served.lifecycle.trans hl

theorem irqTurn_keeps (s : State) : Res.Ends (irqTurn s) (TurnKeeps s) := by
  cases hp : s.session.irq with
  | some p =>
    have hi : s.session.irq.isSome = true := by rw [hp]; rfl
    simp only [irqTurn, hp]
    split
    · exact (withBus_serves (serviceSlice_serves _ _ p s)).endTurn .irq
        (fun t q ht => State.setIrq_keeps ht.1 ht.2 hi q) fun t f ht => ht.trans (BusKeeps.logged t _ f).turn
    · exact Res.ends_next.mpr (State.setIrq_keeps (BusKeeps.refl s).serves (.inr rfl) hi none)
  | none =>
    rcases irqTurn_idle hp with ⟨h, hw, -⟩ | ⟨h, -⟩ <;> rw [h, Res.ends_next]
    · refine .of_session (fun hn => (hn.withEdge (e := false) nofun).withIrq fun _ => ?_) nofun id
      exact (congrArg Lifecycle.started (hn.watcher hw).1).trans rfl
    · exact .refl s

/-! ### The poll path (R157) -/

theorem State.setPoll_keeps (h : ServiceKeeps s t) (hb : s.session.bus = true ∨ t = s)
    (hi : s.session.poll.isSome = true) (p : Option PollPhase) : TurnKeeps s (t.setPoll p) where
  toHostKeeps := h.toHostKeeps.trans (.of_chip rfl rfl (.inr rfl))
  facts _ hn := (h.facts hb hn (hn.poll hi)).withPoll fun _ => h.served.lifecycle ▸ hn.poll hi
  edge he := h.served.edge ▸ he
  stopped hl := h.served.lifecycle.trans hl

theorem afterData_serves (hc : HostConfig) (r : PollResult) (d : Sample × Measurement) (s : State) :
    (afterData hc r d s).Ends (ServiceKeeps s) := by
  have hled : ServiceKeeps s ((s.setLed false).emit (.data d.2 r)) :=
    (s.setLed_serves false).thenBus (.of_chip rfl rfl (.inr rfl) rfl)
  simp only [afterData]
  split
  · split
    · exact ((decideService_keeps .poll hc.strategy _ d.1.clear _).imp fun _ => hled.thenBus).bind fun _ _ hu => hu
    · exact hled
  · exact hled

theorem afterPollRead_serves (hc : HostConfig) (r : PollResult) (s : State) :
    (afterPollRead hc r s).Ends (ServiceKeeps s) := by
  unfold afterPollRead
  split
  · exact s.setLed_serves true
  · exact (BusKeeps.refl s).serves

theorem pollRead_keeps (hc : HostConfig) (s : State) : (pollRead hc s).Ends (BusKeeps s) := by
  unfold pollRead
  split
  · exact (rdStatus_ends s).keepsAnswered.bindKeeps fun _ t => BusKeeps.refl t
  · exact (rdProfile_ends s).keepsAnswered.bindKeeps fun _ t => BusKeeps.refl t

theorem pollSlice_serves (hc : HostConfig) (p : PollPhase) (s : State) :
    (pollSlice hc p s).Ends (ServiceKeeps s) := by
  cases p with
  | read => exact (pollRead_keeps hc s).bindServes (afterPollRead_serves hc)
  | ledDelay r => exact (BusKeeps.refl s).serves
  | readData r => exact (rdData_ends s).keepsAnswered.bindServes (afterData_serves hc r)
  | service q => exact (serviceSlice_serves .poll hc.strategy q s).bind fun _ _ ht => ht

theorem pollTurn_keeps (s : State) : Res.Ends (pollTurn s) (TurnKeeps s) := by
  unfold pollTurn
  split
  next p hp =>
    have hi : s.session.poll.isSome = true := by rw [hp]; rfl
    split
    · exact (withBus_serves (pollSlice_serves _ p s)).endTurn .poll
        (fun t q ht => State.setPoll_keeps ht.1 ht.2 hi q) fun t f ht => ht.trans (BusKeeps.logged t _ f).turn
    · exact Res.ends_next.mpr (State.setPoll_keeps (BusKeeps.refl s).serves (.inr rfl) hi none)
  · exact Res.ends_next.mpr (.refl s)

theorem pollFires_keeps (s : State) : TurnKeeps s (pollFires s) := by
  unfold pollFires
  split
  next h => exact .of_session (fun hn => hn.withPoll fun _ => by rw [h.1]; rfl) id id
  · exact .refl s

/-! ### The setup sequence (R160 to R163) -/

/-- A failure of the setup, wherever the failing action has ended. -/
theorem TurnKeeps.setupFailed (h : BusKeeps s t) (hl : s.session.lifecycle.inSetup = true) (f : Failure) :
    TurnKeeps s (t.setupFailed f) :=
  h.turn.trans ⟨.of_chip rfl rfl (.inr rfl), fun _ hn => hn.failed (h.session ▸ hl), id,
    fun hs => by rw [h.session] at hs; rw [hs] at hl; exact nomatch hl⟩

theorem connect_keeps (hl : s.session.lifecycle = .connecting) : TurnKeeps s (connect s) := by
  unfold connect
  split
  · exact (BusKeeps.answered s).turn.trans
      (.of_session (fun hn => hn.connected hl) id fun hs => absurd (hl.symm.trans hs) nofun)
  · exact .setupFailed (.answered s) (hl ▸ rfl) _

/-- Confirming the identity changes the session's state, its peripherals, the log and the environment's counters. -/
theorem identityConfirmed_eq (hc : HostConfig) (s : State) : ∃ led line answers draws log,
    identityConfirmed hc s = { s with
      session := { s.session with lifecycle := .applyingProfile, led := led, line := line }
      answers := answers, draws := draws, log := log } := by
  unfold identityConfirmed acquireLine acquireLed
  repeat' split
  all_goals exact ⟨_, _, _, _, _, rfl⟩

theorem verifyIdentity_keeps (hc : HostConfig) (hl : s.session.lifecycle = .verifyingIdentity) :
    Res.Ends (verifyIdentity hc s) (TurnKeeps s) := by
  have hk : (rdId s).Ends (BusKeeps s) := (rdId_ends s).keepsAnswered
  unfold verifyIdentity
  split
  next b t ht =>
    have ht : BusKeeps s t := by rw [ht] at hk; exact hk
    rw [Res.ends_next]
    split
    · obtain ⟨led, line, answers, draws, log, he⟩ := identityConfirmed_eq hc t
      have hlt : t.session.lifecycle = .verifyingIdentity := ht.session ▸ hl
      rw [he]
      exact ht.turn.trans ⟨.of_chip rfl rfl (.inr rfl), fun _ hn => hn.confirmed hlt led line, id,
        fun hs => absurd (hlt.symm.trans hs) nofun⟩
    · exact .setupFailed ht (hl ▸ rfl) _
  next f t ht => rw [ht] at hk; exact Res.ends_next.mpr (.setupFailed hk (hl ▸ rfl) f)
  · exact Res.ends_fault _
  · exact Res.ends_refused _

/-- Setup is complete. -/
theorem TurnKeeps.enterRunning (h : BusKeeps s t) (hl : s.session.lifecycle = .applyingProfile) {hc : HostConfig}
    (hw : CfgFacts s.cfg → SessionFacts s.cfg s.session → windowOk (mergeProfile hc.profile).threshold = true) :
    TurnKeeps s (t.enterRunning hc) where
  toHostKeeps := h.toHostKeeps.trans (.of_chip rfl rfl (.inr rfl))
  facts hcf hn := SessionFacts.entered (h.session ▸ hn) (h.session ▸ hl) (hw hcf hn)
  edge he := h.session ▸ he
  stopped hs := absurd (hl.symm.trans hs) nofun

/-- The setup goes on inside `ApplyingProfile`. -/
theorem TurnKeeps.setApplying (h : BusKeeps s t) (hl : s.session.lifecycle = .applyingProfile) {p : ApplyPhase}
    (hp : CfgFacts s.cfg → SessionFacts s.cfg s.session →
      (∀ hc, s.session.config = some hc → windowOk (mergeProfile hc.profile).threshold = true) ∧
      ∀ job, p = .write job → jobOk s.cfg job = true) : TurnKeeps s (t.setApplying p) where
  toHostKeeps := h.toHostKeeps.trans (.of_chip rfl rfl (.inr rfl))
  facts hcf hn := SessionFacts.progressed (h.session ▸ hn) (h.session ▸ hl) (h.session ▸ (hp hcf hn).1) (hp hcf hn).2
  edge he := h.session ▸ he
  stopped hs := absurd (hl.symm.trans hs) nofun

theorem applyWrites_keeps {hc : HostConfig} {job : WriteJob} (hl : s.session.lifecycle = .applyingProfile)
    (hcfg : s.session.config = some hc)
    (hok : CfgFacts s.cfg → SessionFacts s.cfg s.session →
      windowOk (mergeProfile hc.profile).threshold = true ∧ jobOk s.cfg job = true) :
    Res.Ends (applyWrites hc job s) (TurnKeeps s) := by
  have hk := continueJob_keeps job s
  have hw : CfgFacts s.cfg → SessionFacts s.cfg s.session →
      ∀ hc', s.session.config = some hc' → windowOk (mergeProfile hc'.profile).threshold = true := fun hcf hn hc' h' => by
    obtain rfl : hc = hc' := Option.some.inj (hcfg.symm.trans h')
    exact (hok hcf hn).1
  unfold applyWrites
  split
  next t ht =>
    rw [ht] at hk
    rw [Res.ends_next]
    split
    · exact .setApplying hk hl fun hcf hn => ⟨hw hcf hn, nofun⟩
    · exact .enterRunning hk hl fun hcf hn => (hok hcf hn).1
  next rest t ht =>
    rw [ht] at hk
    obtain ⟨k, rfl⟩ := continueJob_rest ht
    refine Res.ends_next.mpr (.setApplying hk hl fun hcf hn => ⟨hw hcf hn, ?_⟩)
    rintro _ ⟨⟩
    exact jobOk_eraseIdx (hok hcf hn).2 k
  next f t ht => rw [ht] at hk; exact Res.ends_next.mpr (.setupFailed hk (hl ▸ rfl) f)
  · exact Res.ends_fault _
  · exact Res.ends_refused _

theorem applyClear_keeps {hc : HostConfig} (hl : s.session.lifecycle = .applyingProfile)
    (hw : CfgFacts s.cfg → SessionFacts s.cfg s.session → windowOk (mergeProfile hc.profile).threshold = true) :
    Res.Ends (applyClear hc s) (TurnKeeps s) := by
  have hk := clrInt_keeps s
  unfold applyClear
  split
  next t ht => rw [ht] at hk; exact Res.ends_next.mpr (.enterRunning hk hl hw)
  next f t ht => rw [ht] at hk; exact Res.ends_next.mpr (.setupFailed hk (hl ▸ rfl) f)
  · exact Res.ends_fault _
  · exact Res.ends_refused _

theorem applyTurn_keeps {hc : HostConfig} (hl : s.session.lifecycle = .applyingProfile)
    (hcfg : s.session.config = some hc) : Res.Ends (applyTurn hc s) (TurnKeeps s) := by
  unfold applyTurn
  split
  next job ha =>
    exact applyWrites_keeps hl hcfg fun _ hn => ⟨(hn.applying _ ha).2.1 hc hcfg, (hn.applying _ ha).2.2 job rfl⟩
  next ha => exact applyClear_keeps hl fun _ hn => (hn.applying _ ha).2.1 hc hcfg
  · split
    · exact Res.ends_next.mpr (.setupFailed (.refl s) (hl ▸ rfl) _)
    next job he =>
      exact applyWrites_keeps hl hcfg fun hcf _ => ⟨windowOk_of_encodeProfile he, encodeProfile_jobOk hcf he⟩

theorem setupTurn_keeps (s : State) : Res.Ends (setupTurn s) (TurnKeeps s) := by
  unfold setupTurn
  split
  · exact Res.ends_next.mpr (.refl s)
  next hc hcfg =>
    cases hl : s.session.lifecycle with
    | connecting => exact Res.ends_next.mpr (connect_keeps hl)
    | verifyingIdentity => exact verifyIdentity_keeps hc hl
    | applyingProfile => exact applyTurn_keeps hl hcfg
    | unconfigured | running | stopped | retryWaiting => exact Res.ends_next.mpr (.refl s)

theorem retryFires_keeps (s : State) : TurnKeeps s (retryFires s) := by
  unfold retryFires
  split
  next h => exact .of_session (fun hn => hn.retried h.1) id fun hs => absurd (h.1.symm.trans hs) nofun
  · exact .refl s

/-! ### The lifecycle calls (R160, R164) -/

theorem stopSession_keeps (s : State) : TurnKeeps s (stopSession s) := by
  have hd : s.session.lifecycle = .running ∨ s.session.lifecycle = .retryWaiting → TurnKeeps s s.destroySession :=
    fun hl => .of_session (fun hn => hn.destroyed hl) nofun fun _ => rfl
  unfold stopSession
  cases hl : s.session.lifecycle with
  | running => exact hd (.inl hl)
  | retryWaiting => exact hd (.inr hl)
  | unconfigured | connecting | verifyingIdentity | applyingProfile | stopped => exact .refl s

theorem lifecycleCall_keeps (c : LifecycleCall) (s : State) : TurnKeeps s (lifecycleCall c s) := by
  cases c with
  | setupWithRetry hc =>
    simp only [lifecycleCall, setupWithRetry]
    split
    next hl => exact .of_session (fun hn => hn.configured hl hc) id fun hs => absurd (hl.symm.trans hs) nofun
    · exact .refl s
  | start =>
    simp only [lifecycleCall, startSession]
    split
    next hl => exact .of_session (fun hn => hn.startedUp hl) id id
    · exact .refl s
  | stop => exact stopSession_keeps s

/-! ### The step -/

/-- All that a step can be before the watcher looks at it: a turn of the host, a move of the chip, or a repeated read
built by hand, within which the chip may act. -/
theorem scheduled_cases (h : scheduled s = .next t) :
    TurnKeeps s t
      ∨ (∃ act rest, s.schedule = .chip act :: rest ∧ t = chipActs act { s with schedule := rest })
      ∨ ∃ n, s.repeatsRead n ∧ RepeatedRead n s t := by
  have hfg : ∀ rest, s.foregroundMoves → foreground { s with schedule := rest } = .next t →
      TurnKeeps s t ∨ ∃ n, s.repeatsRead n ∧ RepeatedRead n s t := fun rest hm hf => by
    rcases foreground_ends _ t hf with hb | ⟨cmd, n, q, hq, hr, hrr⟩
    · exact .inl ((BusKeeps.scheduleMoved s rest).trans hb).turn
    · exact .inr ⟨n, ⟨hm, cmd, q, hq, hr⟩, { hrr with }⟩
  have hhost : ∀ rest {r : Res}, Res.Ends r (TurnKeeps { s with schedule := rest }) → r = .next t → TurnKeeps s t :=
    fun rest _ hk hr => (BusKeeps.scheduleMoved s rest).turn.trans (hk t hr)
  unfold scheduled at h
  split at h
  next hs => exact (hfg [] (.inl hs) (by rw [← hs]; exact h)).imp_right .inr
  next v rest hs =>
    cases v with
    | foreground => exact (hfg rest (.inr (by rw [hs]; rfl)) h).imp_right .inr
    | call c => exact .inl (hhost rest (Res.ends_next.mpr (lifecycleCall_keeps c _)) h)
    | setup => exact .inl (hhost rest (setupTurn_keeps _) h)
    | retryFires => exact .inl (hhost rest (Res.ends_next.mpr (retryFires_keeps _)) h)
    | pollFires => exact .inl (hhost rest (Res.ends_next.mpr (pollFires_keeps _)) h)
    | poll => exact .inl (hhost rest (pollTurn_keeps _) h)
    | irq => exact .inl (hhost rest (irqTurn_keeps _) h)
    | chip act =>
      cases h
      exact .inr (.inl ⟨act, rest, hs, rfl⟩)

/-- A move of the chip, seen from before the schedule moves on. -/
theorem chipActs_scheduled (act : ChipAct) (s : State) (rest : List Turn) :
    ChipKeeps s (chipActs act { s with schedule := rest })
      ∧ (chipActs act { s with schedule := rest }).session = s.session
      ∧ (chipActs act { s with schedule := rest }).job = s.job := by
  obtain ⟨chip, hc⟩ := chipActs_eq act { s with schedule := rest }
  exact ⟨{ chipActs_keeps act { s with schedule := rest } with }, by rw [hc], by rw [hc]⟩

/-- What a step keeps of the invariant before the watcher looks at it. -/
structure SoundUnwatched (s t : State) : Prop where
  memWf : memWf s.cfg.resetReg t.chip.reg = true
  facts : SessionFacts s.cfg t.session
  job : t.jobSound
  edge : t.session.edge = true → s.session.edge = true

/-- The chip keeps it, since it leaves session and job alone. -/
theorem ChipKeeps.soundUnwatched (hk : ChipKeeps s t) (hs : s.sound = true) (hn : t.session = s.session)
    (hj : t.job = s.job) : SoundUnwatched s t := by
  obtain ⟨hc, hm, hfacts, hjob, -⟩ := State.sound_iff.mp hs
  exact ⟨hk.memWf hc hm, hn ▸ hfacts, State.jobSound_of_job hk.cfg (.inr hj) hjob, fun he => hn ▸ he⟩

theorem scheduled_sound (hs : s.sound = true) (h : scheduled s = .next t) : SoundUnwatched s t := by
  rcases scheduled_cases h with hk | ⟨act, rest, -, rfl⟩ | ⟨n, -, hk⟩
  · obtain ⟨hc, hm, hn, hj, -⟩ := State.sound_iff.mp hs
    exact ⟨hk.memWf hm, hk.facts hc hn, hk.job hc hj, hk.edge⟩
  · obtain ⟨hk, hn, hj⟩ := chipActs_scheduled act s rest
    exact hk.soundUnwatched hs hn hj
  · exact hk.toChipKeeps.soundUnwatched hs hk.session hk.job

/-- The watcher keeps a sound session: it sees an edge only while it is attached. -/
theorem SessionFacts.observed {c : Cfg} {b a : State} (h : SessionFacts c a.session) :
    SessionFacts c (observeEdge b a).session := by
  rcases observeEdge_cases b a with he | ⟨he, hw, -⟩ | ⟨he, -⟩ <;> rw [he]
  · exact h
  · exact h.withEdge fun _ => hw
  · exact h.withEdge nofun

/-- Settles O47: whoever moves keeps the register file, the session and the job, and the watcher keeps an edge only for a
latched condition. -/
theorem stepKeepsSound : Obligations.StepKeepsSound := by
  intro s t hs h
  obtain ⟨r, hr, rfl⟩ := step_next h
  obtain ⟨hc, -, -, -, he⟩ := State.sound_iff.mp hs
  obtain ⟨hm, hn, hj, hk⟩ := scheduled_sound hs hr
  have hcfg : r.cfg = s.cfg := scheduled_keepsCfg s r hr
  rw [State.sound_iff, observeEdge_cfg, observeEdge_chip, observeEdge_job, hcfg]
  refine ⟨hc, hm, hn.observed, ?_, observeEdge_needs_latch he hk⟩
  rw [← hcfg]
  exact hj

end Sys2Proof.Machine
end

section
/-! PROOFS. What is the chip's own (R28 to R31, R153, R155): the read-only registers and the latch along a step, and what the
accesses of a repeated read find (R45). -/

namespace Sys2Proof.Machine

variable {s t : State} {c : Cfg}

/-! ### Along a step -/

/-- The identity register is not the chip's to write. -/
theorem CfgFacts.id_not_chipWritten (h : CfgFacts c) : c.aId.toNat ∉ chipWritten c := by
  have hn := h.namedNodup
  rw [namedRegisters, List.nodup_append] at hn
  exact (List.nodup_cons.mp hn.2.1).1

/-- ENABLE is not the chip's to write. -/
theorem CfgFacts.enable_not_chipWritten (h : CfgFacts c) : c.aEnable.toNat ∉ chipWritten c := fun hm =>
  h.hostWritten_not_readOnly (a := c.aEnable.toNat) List.mem_cons_self (List.mem_cons_of_mem _ hm)

/-- A read-only register that a step changes is not the identity, and the chip had moved. -/
theorem readOnly_changed {a : Nat} (hs : s.sound = true) (h : step s = .next t) (ha : a ∈ readOnly s.cfg)
    (hne : t.regByte a ≠ s.regByte a) : a ≠ s.cfg.aId.toNat
      ∧ ((∃ act rest, s.schedule = .chip act :: rest) ∨ ∃ n, s.repeatsRead n ∧ s.interludes.take (n - 1) ≠ []) := by
  obtain ⟨hc, -⟩ := State.sound_iff.mp hs
  obtain ⟨r, hr, rfl⟩ := step_next h
  rw [observeEdge_regByte] at hne
  have hid : ChipKeeps s r → a ≠ s.cfg.aId.toNat := fun hk e => hne (hk.regs a (e ▸ hc.id_not_chipWritten))
  rcases scheduled_cases hr with hk | ⟨act, rest, hsch, rfl⟩ | ⟨n, hn, hk⟩
  · exact absurd (hk.regs a fun hw => hc.hostWritten_not_readOnly hw ha) hne
  · exact ⟨hid (chipActs_scheduled act s rest).1, .inl ⟨act, rest, hsch⟩⟩
  · refine ⟨hid hk.toChipKeeps, .inr ⟨n, hn, fun hi => hne ?_⟩⟩
    exact State.regByte_congr hk.cfg (congrArg Chip.reg (hk.still hi)) a

/-- Timers and lifecycle calls leave the chip alone. -/
theorem lifecycleCall_chip (k : LifecycleCall) (s : State) : (lifecycleCall k s).chip = s.chip := by
  cases k with
  | setupWithRetry hc => simp only [lifecycleCall, setupWithRetry]; split <;> rfl
  | start => simp only [lifecycleCall, startSession]; split <;> rfl
  | stop => simp only [lifecycleCall, stopSession]; split <;> rfl

theorem retryFires_chip (s : State) : (retryFires s).chip = s.chip := by
  unfold retryFires; split <;> rfl

theorem pollFires_chip (s : State) : (pollFires s).chip = s.chip := by
  unfold pollFires; split <;> rfl

/-- A newly set latch is a completed cycle's. -/
theorem scheduled_latches (h : scheduled s = .next t) (h0 : s.chip.latch = false) (h1 : t.chip.latch = true) :
    (∃ status x m rest, s.schedule = .chip (.cycle status x m) :: rest)
      ∨ ∃ n, s.repeatsRead n ∧ ∃ acts ∈ s.interludes.take (n - 1), ∃ status x m, .cycle status x m ∈ acts := by
  rcases scheduled_cases h with hk | ⟨act, rest, hsch, rfl⟩ | ⟨n, hn, hk⟩
  · exact Bool.noConfusion (h0.symm.trans (hk.latch h1))
  · obtain ⟨status, x, m, rfl⟩ := chipActs_latches (s := { s with schedule := rest }) h0 h1
    exact .inl ⟨status, x, m, rest, hsch⟩
  · exact .inr ⟨n, hn, hk.latches h0 h1⟩

/-- A latch that is cleared was cleared at a turn that may issue the clear. -/
theorem scheduled_clears (h : scheduled s = .next t) (h1 : s.chip.latch = true) (h0 : t.chip.latch = false) :
    s.schedule = [] ∨ ∃ u rest, s.schedule = u :: rest ∧ u ∈ [Turn.foreground, .setup, .poll, .irq] := by
  unfold scheduled at h
  split at h
  next hs => exact .inl hs
  next u rest hs =>
    refine .inr ⟨u, rest, hs, ?_⟩
    have hstay : t.chip.latch = true → u ∈ [Turn.foreground, .setup, .poll, .irq] := fun hl =>
      Bool.noConfusion (h0.symm.trans hl)
    cases u with
    | foreground | setup | poll | irq => simp
    | call k => cases h; exact hstay (by rw [lifecycleCall_chip]; exact h1)
    | retryFires => cases h; exact hstay (by rw [retryFires_chip]; exact h1)
    | pollFires => cases h; exact hstay (by rw [pollFires_chip]; exact h1)
    | chip act => cases h; exact hstay ((chipActs_scheduled act s rest).1.latch h1)

/-- Settles O51: the watcher leaves the chip alone, so it is the agent that moves. -/
theorem latchSetByCompletedCycleOnly : Obligations.LatchSetByCompletedCycleOnly := by
  intro s t h
  obtain ⟨r, hr, rfl⟩ := step_next h
  rw [observeEdge_chip]
  exact ⟨scheduled_latches hr, scheduled_clears hr⟩

/-! ### The accesses of a repeated read (R45) -/

/-- The described bits of what a read finds are those of the byte that stands there. -/
theorem hostByte_described (s : State) (a : Nat) :
    s.hostByte a &&& describedBits s.cfg a = s.heldByte a &&& describedBits s.cfg a :=
  blend_and BitVec.and_self _ _

/-- The byte that stands in a register, where it is not the chip's or the chip does nothing, is the same at every access. -/
theorem State.afterInterludes_heldByte {a : Nat} (h : a ∉ chipWritten s.cfg ∨ s.interludes = []) (i : Nat) :
    (s.afterInterludes i).heldByte a = s.heldByte a := by
  rcases h with ha | hi
  · have hk := s.afterInterludes_keeps i
    have hs : a ≠ s.cfg.aStatus.toNat := fun e => ha (e ▸ List.mem_cons_self)
    rw [heldByte_of_ne (hk.cfg ▸ hs), heldByte_of_ne hs, hk.regs a ha]
  · rw [State.afterInterludes_none hi]; rfl

/-- Interrupts stay enabled through the interludes. -/
theorem State.afterInterludes_enableNow (hc : CfgFacts s.cfg) (i : Nat) :
    (s.afterInterludes i).enableNow = s.enableNow := by
  have hk := s.afterInterludes_keeps i
  rw [State.enableNow, State.enableNow, hk.cfg, hk.regs _ hc.enable_not_chipWritten]

/-- While interrupts are enabled, a read of STATUS shows the violation exactly while the condition is latched (R155). -/
theorem hostByte_violation_iff (hc : CfgFacts s.cfg) (he : s.enableNow.interrupts = true) :
    s.hostByte s.cfg.aStatus.toNat &&& s.cfg.mAint ≠ 0 ↔ s.chip.latch = true := by
  have h := (congrArg StatusFlags.thresholdViolation (statusFlags_hostByte hc)).trans (s.statusByte_violation hc he)
  rw [← h]
  exact bne_iff_ne.symm

/-- So it does at each access of a repeated read. -/
theorem State.afterInterludes_violation_iff (hc : CfgFacts s.cfg) (he : s.enableNow.interrupts = true) (i : Nat) :
    (s.afterInterludes i).hostByte s.cfg.aStatus.toNat &&& s.cfg.mAint ≠ 0
      ↔ (s.afterInterludes i).chip.latch = true := by
  have hcfg := (s.afterInterludes_keeps i).cfg
  have h := hostByte_violation_iff (s := s.afterInterludes i) (hcfg ▸ hc)
    (by rw [State.afterInterludes_enableNow hc]; exact he)
  rwa [hcfg] at h

/-- The state in which an acknowledged repeated read ends. -/
theorem State.afterInterludes_answered (s : State) (k : Nat) : (s.afterInterludes k).answered =
    { s.answered with
      chip := (s.afterInterludes k).chip, interludes := s.interludes.drop k
      draws := (s.afterInterludes k).answered.draws } := by
  obtain ⟨chip, h⟩ := s.afterInterludes_eq k
  rw [h]; rfl

/-- An acknowledged repeated read of `n` bytes is `n` successive reads of one register. -/
theorem busRead_repeat_ok (hc : CfgFacts s.cfg) (ha : s.answer = .ok) (a : BitVec 5) (n : Nat) :
    busRead (commandByte a s.cfg.tRepeat true) n s =
      .ok ((List.range n).map fun i => (s.afterInterludes i).hostByte a.toNat) (s.afterInterludes (n - 1)).answered := by
  obtain ⟨chip, h⟩ := s.afterInterludes_eq (n - 1)
  rw [busRead_repeat hc, State.answerRead_ok]
  rw [h]; exact ha

/-- The `i`-th byte of a repeated read is what its `i`-th access finds. -/
theorem getD_map_range (f : Nat → Byte) {n i : Nat} (hi : i < n) : ((List.range n).map f).getD i 0 = f i := by
  simp [List.getD_eq_getElem?_getD, List.getElem?_range hi]

/-- Settles O50: along a step by what the agents keep, within a repeated read by what the interludes keep. -/
theorem readOnlyRegistersAreTheChips : Obligations.ReadOnlyRegistersAreTheChips := by
  refine ⟨fun s t a hs h ha hne => readOnly_changed hs h ha hne, fun s a n hwf hok => ?_⟩
  have hc := (cfgWellFormed_iff _).mp hwf
  refine ⟨_, _, busRead_repeat_ok hc hok a n, by simp, s.afterInterludes_answered (n - 1),
    (s.afterInterludes_keeps (n - 1)).regs, fun hstill i hi => ?_, ?_⟩
  · have hd := hostByte_described (s.afterInterludes i) a.toNat
    rw [(s.afterInterludes_keeps i).cfg, State.afterInterludes_heldByte hstill] at hd
    rw [getD_map_range _ hi, hd]
  · rintro rfl he
    have hv := State.afterInterludes_violation_iff hc he
    refine ⟨fun i hi hl => ?_, fun i hi j hj hij => ?_, fun hn => ?_⟩
    · rw [getD_map_range _ hi, hv]
      exact (s.afterInterludes_keeps i).latch hl
    · rw [getD_map_range _ hi, getD_map_range _ hj, hv, hv]
      exact (s.afterInterludes_later hij).latch
    · rw [getD_map_range _ (by omega), hv]
      rfl

end Sys2Proof.Machine
end

section
/-! PROOFS. What the foreground takes from its queue: a decoded operation (R14, R49), of which the block's are pure (R13), or
a bus primitive built by hand, and where such a primitive stops (R72, U3, U4, U12, U17). Also the state after reset. -/

namespace Sys2Proof.Machine

variable {s : State} {c : Cfg}

/-! ### The foreground's step -/

/-- The schedule moved on, when it had nothing left. -/
theorem State.scheduleMoved_nil (h : s.schedule = []) : { s with schedule := s.schedule.tail } = s := by
  cases s; cases h; rfl

/-- When the foreground moves, the step is its turn on the state whose schedule has moved on. -/
theorem step_of_foreground (h : s.schedule = [] ∨ s.schedule.head? = some .foreground) :
    step s = watchLine s (foreground { s with schedule := s.schedule.tail }) := by
  rcases h with h | h
  · rw [step_of_empty h, State.scheduleMoved_nil h]
  · obtain ⟨rest, hs⟩ := List.head?_eq_some_iff.mp h
    rw [step_of_turn hs, hs]; rfl

/-- The foreground runs what its oldest item decodes to. -/
theorem foreground_issue {item : Issue} {rest : List HostCommand} {i : Instr} (hq : s.queue = .issue item :: rest)
    (hd : decode item = .ok i) : foreground s = retireItem i rest (exec i s) := by
  simp only [foreground, hq, hd]

/-- The foreground takes a primitive built by hand off the queue and does it. -/
theorem foreground_bus {b : BusRequest} {rest : List HostCommand} (hq : s.queue = .bus b :: rest) :
    foreground s = busTurn b { s with queue := rest } := by
  simp only [foreground, hq]

/-- Settles O4: the step is the foreground's turn, and that turn runs the operation. -/
theorem stepRunsDecodedOperation : Obligations.StepRunsDecodedOperation := by
  intro s item rest i hm hq hd _
  rw [step_of_foreground hm, foreground_issue (s := { s with schedule := s.schedule.tail }) hq hd]
  cases exec i { s with schedule := s.schedule.tail } <;> rfl

/-- Settles O5: what a block operation computes from the parameters is its one result or error. -/
theorem blockOperationsArePure : Obligations.BlockOperationsArePure := by
  intro i c hb
  obtain ⟨f, hf⟩ := exec_settles hb
  refine ⟨f c, ?_⟩
  rintro s rfl
  rw [hf s]
  cases f s.cfg <;> rfl

/-! ### Hand-built primitives (R60, R62, R72) -/

/-- A read whose command byte has the indicator set. -/
theorem busRead_commandByte (a : BitVec 5) (ty : BitVec 2) (n : Nat) (s : State) :
    busRead (commandByte a ty true) n s =
      if ty = s.cfg.tAutoinc then
        if 32 < a.toNat + n then .fault (.pastRegisterSpace a.toNat n)
        else s.answerRead ((List.range n).map fun i => s.hostByte (a.toNat + i))
      else if ty = s.cfg.tRepeat then
        (s.afterInterludes (n - 1)).answerRead ((List.range n).map fun i => (s.afterInterludes i).hostByte a.toNat)
      else .refused (.typeUndescribed (commandByte a ty true)) := by
  simp only [busRead, cmdIndicator_commandByte, cmdType_commandByte, cmdAddress_commandByte, Bool.not_true,
    Bool.false_eq_true, if_false]

/-- A write whose command byte has the indicator set. -/
theorem busWrite_commandByte (a : BitVec 5) (ty : BitVec 2) (bs : List Byte) (s : State) :
    busWrite (commandByte a ty true) bs s =
      if ty = s.cfg.tAutoinc then
        if 32 < a.toNat + bs.length then .fault (.pastRegisterSpace a.toNat bs.length) else s.writeFrom a.toNat bs
      else if ty = s.cfg.tRepeat then
        if 1 < bs.length then .refused (.repeatedWrite bs.length) else s.writeFrom a.toNat bs
      else .refused (.typeUndescribed (commandByte a ty true)) := by
  simp only [busWrite, cmdIndicator_commandByte, cmdType_commandByte, cmdAddress_commandByte, Bool.not_true,
    Bool.false_eq_true, if_false]

/-- A special function whose command byte has the indicator set. -/
theorem busSpecial_commandByte (a : BitVec 5) (ty : BitVec 2) (s : State) :
    busSpecial (commandByte a ty true) s =
      if ty ≠ s.cfg.tSpecial then .refused (.typeUndescribed (commandByte a ty true))
      else if a ≠ s.cfg.fClear then .refused (.reservedFunction a) else s.answerClear := by
  simp only [busSpecial, cmdIndicator_commandByte, cmdType_commandByte, cmdAddress_commandByte, Bool.not_true,
    Bool.false_eq_true, if_false]

/-- With the indicator clear no primitive is done (U12). -/
theorem bus_indicatorClear (a : BitVec 5) (ty : BitVec 2) (bs : List Byte) (n : Nat) (s : State) :
    busRead (commandByte a ty false) n s = .refused (.indicatorClear (commandByte a ty false))
      ∧ busWrite (commandByte a ty false) bs s = .refused (.indicatorClear (commandByte a ty false))
      ∧ busSpecial (commandByte a ty false) s = .refused (.indicatorClear (commandByte a ty false)) := by
  simp only [busRead, busWrite, busSpecial, cmdIndicator_commandByte, Bool.not_false, if_true, and_self]

/-- The first address of a write that the host may not write. -/
theorem forbiddenWrite_first {a n i : Nat} (hi : i < n) (hbefore : ∀ j < i, a + j ∈ hostWritten c)
    (hn : a + i ∉ hostWritten c) : forbiddenWrite c a n = some (a + i) := by
  have hf : ((List.range n).find? fun j => !(hostWritten c).contains (a + j)) = some i := by
    rw [List.find?_range_eq_some]
    refine ⟨by simpa using hn, List.mem_range.mpr hi, fun j hj => by simpa using hbefore j hj⟩
  rw [forbiddenWrite, List.find?_map]
  exact congrArg (Option.map (a + ·)) hf

/-- A write whose first forbidden register is read-only is refused by that name. -/
theorem State.writeFrom_readOnly (h : CfgFacts s.cfg) {a i : Nat} {bs : List Byte} (hi : i < bs.length)
    (hbefore : ∀ j < i, a + j ∈ hostWritten s.cfg) (hr : a + i ∈ readOnly s.cfg) :
    s.writeFrom a bs = .refused (.readOnlyWrite (a + i)) := by
  simp only [State.writeFrom, writeRefusal,
    forbiddenWrite_first hi hbefore fun hw => h.hostWritten_not_readOnly hw hr, if_pos hr]

/-- A write whose first forbidden register is reserved is refused by that name. -/
theorem State.writeFrom_reserved {a i : Nat} {bs : List Byte} (hi : i < bs.length)
    (hbefore : ∀ j < i, a + j ∈ hostWritten s.cfg) (hn : a + i ∉ namedRegisters s.cfg) :
    s.writeFrom a bs = .refused (.reservedWrite (a + i)) := by
  have hr : a + i ∉ readOnly s.cfg := fun hr => hn (List.mem_append_right _ hr)
  simp only [State.writeFrom, writeRefusal,
    forbiddenWrite_first hi hbefore fun hw => hn (List.mem_append_left _ hw), if_neg hr]

/-- A write of one byte is refused as its one register is. -/
theorem State.writeFrom_single (h : CfgFacts s.cfg) {a : Nat} {bs : List Byte} (hl : bs.length = 1) :
    (a ∈ readOnly s.cfg → s.writeFrom a bs = .refused (.readOnlyWrite a))
      ∧ (a ∉ namedRegisters s.cfg → s.writeFrom a bs = .refused (.reservedWrite a)) :=
  have hi : 0 < bs.length := by omega
  ⟨fun hr => State.writeFrom_readOnly h (a := a) hi nofun hr,
    fun hn => State.writeFrom_reserved (a := a) hi nofun hn⟩

/-- An auto-increment write inside the register space is a write from its address on. -/
theorem busWrite_autoinc {a : BitVec 5} {bs : List Byte} (hin : a.toNat + bs.length ≤ 32) :
    busWrite (commandByte a s.cfg.tAutoinc true) bs s = s.writeFrom a.toNat bs := by
  rw [busWrite_commandByte, if_pos rfl, if_neg (by omega)]

/-- So is a repeated write of one byte. -/
theorem busWrite_repeat (h : CfgFacts s.cfg) {a : BitVec 5} {bs : List Byte} (hl : bs.length = 1) :
    busWrite (commandByte a s.cfg.tRepeat true) bs s = s.writeFrom a.toNat bs := by
  rw [busWrite_commandByte, if_neg h.types_ne.1, if_pos rfl, if_neg (by omega)]

/-- Settles O45: clause by clause over the primitives, and as a step through the foreground's turn. -/
theorem handBuiltPrimitivesRefused : Obligations.HandBuiltPrimitivesRefused := by
  refine ⟨fun s a ty bs n hwf => ?_, fun s b rest hm hq => ?_⟩
  · have h := (cfgWellFormed_iff _).mp hwf
    refine ⟨bus_indicatorClear a ty bs n s, fun hpast => ?_, fun hpast => ?_, fun h1 h2 => ⟨?_, ?_⟩, fun hty => ?_,
      fun hl => ?_, fun i hi hbefore => ⟨fun hr hin => ?_, fun hn hin => ?_⟩, fun hl hr => ?_, fun hl hn => ?_,
      fun hf => ?_⟩
    · rw [busRead_commandByte, if_pos rfl, if_pos hpast]
    · rw [busWrite_commandByte, if_pos rfl, if_pos hpast]
    · rw [busRead_commandByte, if_neg h1, if_neg h2]
    · rw [busWrite_commandByte, if_neg h1, if_neg h2]
    · rw [busSpecial_commandByte, if_pos hty]
    · rw [busWrite_commandByte, if_neg h.types_ne.1, if_pos rfl, if_pos hl]
    · rw [busWrite_autoinc hin, State.writeFrom_readOnly h hi hbefore hr]
    · rw [busWrite_autoinc hin, State.writeFrom_reserved hi hbefore hn]
    · rw [busWrite_repeat h hl, (State.writeFrom_single h hl).1 hr]
    · rw [busWrite_repeat h hl, (State.writeFrom_single h hl).2 hn]
    · rw [busSpecial_commandByte, if_neg (not_not.mpr rfl), if_pos hf]
  · rw [step_of_foreground hm, foreground_bus (s := { s with schedule := s.schedule.tail }) hq]
    cases busTurn b { s with schedule := s.schedule.tail, queue := rest } <;> rfl

/-! ### The state after reset (R36, R160, R177) -/

/-- Settles O48: the default parameters are well-formed, nothing is written, and the session is `Unconfigured`. -/
theorem resetIsSound : Obligations.ResetIsSound := by
  have hsound : State.reset.sound = true := State.sound_iff.mpr
    ⟨(cfgWellFormed_iff _).mp defaultCfg_wellFormed, reset_memWf, sessionOk_iff.mp rfl, nofun, nofun⟩
  exact ⟨hsound, rfl, rfl, rfl, rfl, rfl, rfl⟩

end Sys2Proof.Machine
end

section
/-! PROOFS. The lifecycle (R160 to R164, R178, R179): what a turn of the setup sequence does when its request is acknowledged
and when it fails, and the calls with the timers' turns that follow them. -/

namespace Sys2Proof.Machine

variable {α : Type} {s t : State} {rest : List Turn} {hc : HostConfig} {job : WriteJob} {landed : List Bool}

/-! ### A turn of the setup as a step -/

/-- Two steps make a run of two. -/
theorem core_run_two {u : State} (h1 : step s = .next t) (h2 : step t = .next u) : core.run 2 s = .next u := by
  rw [core_run_next h1, core_run_next h2]; rfl

/-- With no watcher attached and no edge pending, the watcher makes nothing of a step. -/
theorem observeEdge_unwatched {b a : State} (hw : a.session.watcher = false) (he : a.session.edge = false) :
    observeEdge b a = a := by
  rcases observeEdge_cases b a with h | ⟨-, hw', -⟩ | ⟨h, -⟩
  · exact h
  · exact Bool.noConfusion (hw.symm.trans hw')
  · rw [h, ← he]; rfl

/-- Before the session runs no watcher is attached, so a turn of the setup is the step. -/
theorem step_of_setup (hn : SessionFacts s.cfg s.session) (hl : s.session.lifecycle.started = false)
    (hs : s.schedule = .setup :: rest) (ht : setupTurn { s with schedule := rest } = .next t)
    (hw : t.session.watcher = s.session.watcher) (he : t.session.edge = s.session.edge) : step s = .next t := by
  have hi := hn.idle hl
  have hr : runTurn .setup { s with schedule := rest } = .next t := ht
  rw [step_of_turn hs, hr, watchLine, observeEdge_unwatched (hw.trans hi.watcher) (he.trans hi.edge)]

/-- The turn of the setup in each of its states (R162). -/
theorem setupTurn_connecting (hcfg : s.session.config = some hc) (hl : s.session.lifecycle = .connecting) :
    setupTurn s = .next (connect s) := by
  simp only [setupTurn, hcfg, hl]

theorem setupTurn_verifying (hcfg : s.session.config = some hc) (hl : s.session.lifecycle = .verifyingIdentity) :
    setupTurn s = verifyIdentity hc s := by
  simp only [setupTurn, hcfg, hl]

theorem setupTurn_applying (hcfg : s.session.config = some hc) (hl : s.session.lifecycle = .applyingProfile) :
    setupTurn s = applyTurn hc s := by
  simp only [setupTurn, hcfg, hl]

theorem setupTurn_stopped (hl : s.session.lifecycle = .stopped) : setupTurn s = .next s := by
  cases hcfg : s.session.config <;> simp only [setupTurn, hcfg, hl]

/-- The next thing ApplyingProfile does is a write of the job: the one in progress, or the one its encoders give. -/
def State.nextWrites (s : State) (hc : HostConfig) (job : WriteJob) : Prop :=
  s.session.applying = none ∧ encodeProfile s.cfg (mergeProfile hc.profile) = .ok job
    ∨ s.session.applying = some (.write job)

theorem applyTurn_writes (h : s.nextWrites hc job) : applyTurn hc s = applyWrites hc job s := by
  rcases h with ⟨ha, he⟩ | ha
  · simp only [applyTurn, ha, he]
  · simp only [applyTurn, ha]

theorem applyTurn_clear (h : s.session.applying = some .clear) : applyTurn hc s = applyClear hc s := by
  simp only [applyTurn, h]

theorem State.nextWrites_jobOk (hcf : CfgFacts s.cfg) (hn : SessionFacts s.cfg s.session) (h : s.nextWrites hc job) :
    jobOk s.cfg job = true := by
  rcases h with ⟨-, he⟩ | ha
  · exact encodeProfile_jobOk hcf he
  · exact (hn.applying _ ha).2.2 job rfl

/-! ### A failing request (R152, U6) -/

/-- The action fails on the transport; the session and the log are untouched, and ENABLE keeps its byte. -/
def Slice.Rejected (x : Slice α) (s : State) : Prop :=
  ∃ t, x = .fail .transport t ∧ t.session = s.session ∧ t.log = s.log
    ∧ t.regByte s.cfg.aEnable.toNat = s.regByte s.cfg.aEnable.toNat

theorem rdId_rejected (h : CfgFacts s.cfg) (ha : s.answer = .fail landed) : (rdId s).Rejected s :=
  ⟨s.answered, by simp only [rdId, rdByte, readRegs_repeat h, State.answerRead_fail ha, Slice.bind], rfl, rfl, rfl⟩

theorem clrInt_rejected (ha : s.answer = .fail landed) : (clrInt s).Rejected s := by
  refine ⟨if landed.headD false then s.answered.clearLatch else s.answered, ?_, ?_⟩
  · simp only [clrInt, sendClear_eq, State.answerClear, ha]
  · split <;> exact ⟨rfl, rfl, rfl⟩

/-- A failed write may land in part, but ENABLE keeps its byte. -/
theorem State.answerWrite_rejected (ha : s.answer = .fail landed) (a : Nat) (bs : List Byte) :
    (s.answerWrite a bs).Rejected s := by
  refine ⟨_, State.answerWrite_fail ha a bs, State.landRegs_session .., ?_, ?_⟩
  · obtain ⟨reg, h⟩ := s.answered.landRegs_eq a bs landed
    rw [h]; rfl
  · exact (State.regByte_landRegs s.answered a bs landed _).resolve_right fun h => h.1 rfl

theorem Slice.Rejected.bind {β : Type} {x : Slice α} (h : x.Rejected s) (k : α → State → Slice β) :
    (x.bind k).Rejected s := by
  obtain ⟨t, rfl, h⟩ := h
  exact ⟨t, rfl, h⟩

theorem continueJob_rejected (h : CfgFacts s.cfg) (hj : jobOk s.cfg job = true) (ha : s.answer = .fail landed) :
    (continueJob job s).Rejected s := by
  by_cases hp : job.pending = []
  · rw [continueJob_enable h hj hp]
    exact (State.answerWrite_rejected ha _ _).bind _
  · obtain ⟨w, -, hw⟩ := exists_picked s hp
    rw [continueJob_component h hj hw]
    exact (State.answerWrite_rejected (s := s.picked) ha _ _).bind _

/-! ### A failure in any state of the setup (R163) -/

/-- The setup's turn fails on the transport, from a state that has the session, the log and ENABLE's byte of `s`. -/
def State.setupRejected (s : State) : Prop :=
  ∃ t : State, setupTurn s = .next (t.setupFailed .transport) ∧ t.session = s.session ∧ t.log = s.log
    ∧ t.regByte s.cfg.aEnable.toNat = s.regByte s.cfg.aEnable.toNat

/-- A turn of the setup fails with its request. -/
theorem Slice.Rejected.setup {x : Slice α} (hx : x.Rejected s)
    (ht : ∀ t : State, x = .fail .transport t → setupTurn s = .next (t.setupFailed .transport)) : s.setupRejected := by
  obtain ⟨t, he, h⟩ := hx
  exact ⟨t, ht t he, h⟩

/-- Whatever state of the setup the request fails in (R163; log 28). -/
theorem setupTurn_rejected (hcf : CfgFacts s.cfg) (hn : SessionFacts s.cfg s.session)
    (hcfg : s.session.config = some hc) (ha : s.answer = .fail landed)
    (hl : s.session.lifecycle = .connecting ∨ s.session.lifecycle = .verifyingIdentity
      ∨ s.session.lifecycle = .applyingProfile ∧ (s.session.applying.isSome = true
        ∨ ∃ job, encodeProfile s.cfg (mergeProfile hc.profile) = .ok job)) : s.setupRejected := by
  have hwrites {job : WriteJob} (hl : s.session.lifecycle = .applyingProfile) (hw : s.nextWrites hc job) :
      s.setupRejected :=
    (continueJob_rejected hcf (State.nextWrites_jobOk hcf hn hw) ha).setup fun t he => by
      rw [setupTurn_applying hcfg hl, applyTurn_writes hw, applyWrites, he]
  rcases hl with hl | hl | ⟨hl, happ⟩
  · refine ⟨s.answered, ?_, rfl, rfl, rfl⟩
    rw [setupTurn_connecting hcfg hl, connect, ha]; rfl
  · exact (rdId_rejected hcf ha).setup fun t he => by rw [setupTurn_verifying hcfg hl, verifyIdentity, he]
  · cases hp : s.session.applying with
    | none =>
      obtain ⟨job, he⟩ := happ.resolve_left (by rw [hp]; exact Bool.noConfusion)
      exact hwrites hl (.inl ⟨hp, he⟩)
    | some phase =>
      cases phase with
      | write job => exact hwrites hl (.inr hp)
      | clear =>
        exact (clrInt_rejected ha).setup fun t he => by
          rw [setupTurn_applying hcfg hl, applyTurn_clear hp, applyClear, he]

/-- A profile that an encoder refuses fails the setup with its error. -/
theorem setupTurn_refused {e : OpError} (hcfg : s.session.config = some hc)
    (hl : s.session.lifecycle = .applyingProfile) (hp : s.session.applying = none)
    (he : encodeProfile s.cfg (mergeProfile hc.profile) = .error e) :
    setupTurn s = .next (s.setupFailed (.domain e)) := by
  rw [setupTurn_applying hcfg hl]
  simp only [applyTurn, hp, he]

/-! ### `stop` and `Stopped` (R33, R164) -/

theorem stopSession_of (hl : s.session.lifecycle = .running ∨ s.session.lifecycle = .retryWaiting) :
    stopSession s = s.destroySession := by
  rcases hl with hl | hl <;> simp only [stopSession, hl]

/-- In `Stopped` neither the setup nor a timer does anything. -/
theorem runTurn_stopped {u : Turn} (hu : u ∈ [Turn.setup, .retryFires, .pollFires])
    (hl : s.session.lifecycle = .stopped) : runTurn u s = .next s := by
  simp only [List.mem_cons, List.not_mem_nil, or_false] at hu
  rcases hu with rfl | rfl | rfl
  · exact setupTurn_stopped hl
  · simp only [runTurn, retryFires, hl, reduceCtorEq, false_and, if_false]
  · simp only [runTurn, pollFires, hl, reduceCtorEq, false_and, if_false]

/-- No step leaves `Stopped`. -/
theorem step_stopped (hl : s.session.lifecycle = .stopped) (h : step s = .next t) :
    t.session.lifecycle = .stopped := by
  obtain ⟨r, hr, rfl⟩ := step_next h
  obtain ⟨e, he⟩ := observeEdge_eq s r
  rw [he, State.setEdge_session]
  rcases scheduled_cases hr with hk | ⟨act, rest, -, rfl⟩ | ⟨n, -, hk⟩
  · exact hk.stopped hl
  · rw [(chipActs_scheduled act s rest).2.1]; exact hl
  · rw [hk.session]; exact hl

/-- `stop` and one turn of the setup or of a timer leave the session destroyed. -/
theorem run_stop {u : Turn} (hs : s.schedule = .call .stop :: u :: rest)
    (hu : u ∈ [Turn.setup, .retryFires, .pollFires])
    (hl : s.session.lifecycle = .running ∨ s.session.lifecycle = .retryWaiting) :
    core.run 2 s = .next { s.destroySession with schedule := rest } := by
  have h1 : step s = .next { s.destroySession with schedule := u :: rest } :=
    step_of_turn_same_chip hs (congrArg Host.Outcome.next (stopSession_of (s := { s with schedule := u :: rest }) hl)) rfl
  have h2 : step { s.destroySession with schedule := u :: rest } = .next { s.destroySession with schedule := rest } :=
    step_of_turn_same_chip rfl (runTurn_stopped hu rfl) rfl
  exact core_run_two h1 h2

/-- Settles O56: a failing turn of the setup, a refused profile, the retry timer, `stop`, and `Stopped` for good. -/
theorem retryAndStop : Obligations.RetryAndStop := by
  refine ⟨fun s rest hc landed hs hsch hcfg ha hl => ?_, fun s rest hc e hsch hcfg hl hp he => ?_,
    fun s rest hsch hl ht => ?_, fun s u rest hsch hu hl => ?_, fun s t hl h => step_stopped hl h⟩
  · obtain ⟨hcf, -, hn, -⟩ := State.sound_iff.mp hs
    obtain ⟨t, ht, hsn, hlog, hreg⟩ := setupTurn_rejected (s := { s with schedule := rest }) hcf hn hcfg ha hl
    have hstart : s.session.lifecycle.started = false := by
      rcases hl with hl | hl | ⟨hl, -⟩ <;> rw [hl] <;> rfl
    exact ⟨_, step_of_setup hn hstart hsch ht (by rw [State.setupFailed_session, hsn])
      (by rw [State.setupFailed_session, hsn]), by rw [State.setupFailed_session, hsn],
      by rw [State.setupFailed_log, hlog], hreg⟩
  · exact step_of_turn_same_chip hsch (setupTurn_refused (s := { s with schedule := rest }) hcfg hl hp he) rfl
  · exact step_of_turn_same_chip hsch
      (congrArg Host.Outcome.next (if_pos (⟨hl, ht⟩ : s.session.lifecycle = .retryWaiting ∧ _))) rfl
  · exact ⟨_, run_stop hsch hu hl, rfl, rfl, rfl⟩

/-! ### Acknowledged turns of the setup (R139, R162, R178, R179) -/

theorem connect_granted (ha : s.answer = .ok) : connect s =
    { s.answered with session := { s.session with lifecycle := .verifyingIdentity, bus := true } } := by
  simp only [connect, ha, Answer.granted, if_true]

/-- With component writes left, an acknowledged turn issues the one picked and keeps the rest. -/
theorem applyWrites_component (h : CfgFacts s.cfg) (hj : jobOk s.cfg job = true) (ha : s.answer = .ok) {w : RegWrite}
    (hw : job.pending[s.pick % job.pending.length]? = some w) :
    applyWrites hc job s = .next ((s.picked.answered.setRegs w.address.toNat w.bytes).setApplying
      (.write { job with pending := job.pending.eraseIdx (s.pick % job.pending.length) })) := by
  rw [applyWrites, continueJob_component h hj hw, State.answerWrite_ok (s := s.picked) ha]
  rfl

/-- With none left, an acknowledged turn writes ENABLE; the setup then is complete, or has the start-up clear left. -/
theorem applyWrites_enable (h : CfgFacts s.cfg) (hj : jobOk s.cfg job = true) (ha : s.answer = .ok)
    (hp : job.pending = []) :
    applyWrites hc job s = .next (if hc.startupClear then
        (s.answered.setRegs s.cfg.aEnable.toNat job.enable.bytes).setApplying .clear
      else (s.answered.setRegs s.cfg.aEnable.toNat job.enable.bytes).enterRunning hc) := by
  rw [applyWrites, continueJob_enable h hj hp, State.answerWrite_ok ha]
  rfl

/-- An acknowledged start-up clear completes the setup. -/
theorem applyClear_ok (ha : s.answer = .ok) :
    applyClear hc s = .next (s.answered.clearLatch.enterRunning hc) := by
  rw [applyClear, clrInt, sendClear_eq, State.answerClear_ok ha]

/-- The whole register file after a store of one byte. -/
theorem State.regByte_setRegs_single (s : State) {a : Nat} {bs : List Byte} (hl : bs.length = 1) (x : Nat) :
    (s.setRegs a bs).regByte x = if x = a then bs.getD 0 0 else s.regByte x := by
  rw [State.regByte_setRegs]
  by_cases hx : x = a
  · rw [if_pos (by omega), if_pos hx, hx, Nat.sub_self]
  · rw [if_neg (by omega), if_neg hx]

/-- The turn that issues a component write (R139). -/
theorem applyTurn_component (h : CfgFacts s.cfg) (hn : SessionFacts s.cfg s.session) (hnext : s.nextWrites hc job)
    (ha : s.answer = .ok) {w : RegWrite} (hw : job.pending[s.pick % job.pending.length]? = some w) :
    ∃ t, applyTurn hc s = .next t
      ∧ t.session = { s.session with
          applying := some (.write { job with pending := job.pending.eraseIdx (s.pick % job.pending.length) }) }
      ∧ (∀ i < w.bytes.length, t.regByte (w.address.toNat + i) = w.bytes.getD i 0)
      ∧ (∀ a, a < w.address.toNat ∨ w.address.toNat + w.bytes.length ≤ a → t.regByte a = s.regByte a) := by
  rw [applyTurn_writes hnext, applyWrites_component h (State.nextWrites_jobOk h hn hnext) ha hw]
  refine ⟨_, rfl, ?_, fun i hi => ?_, fun a hout => ?_⟩
  · rw [State.setApplying_session, State.setRegs_session]; rfl
  · rw [State.setApplying_regByte, State.regByte_setRegs, if_pos (by omega), Nat.add_sub_cancel_left]
  · rw [State.setApplying_regByte, State.regByte_setRegs, if_neg (by omega)]; rfl

/-- The turn that writes ENABLE (R139, R178). -/
theorem applyTurn_enable (h : CfgFacts s.cfg) (hn : SessionFacts s.cfg s.session) (hnext : s.nextWrites hc job)
    (ha : s.answer = .ok) (hp : job.pending = []) :
    ∃ t, applyTurn hc s = .next t
      ∧ t.session = (if hc.startupClear then { s.session with applying := some .clear } else
          { s.session with
            lifecycle := .running, applying := none, profile := some (mergeProfile hc.profile)
            window := some (mergeProfile hc.profile).threshold })
      ∧ (∀ a, t.regByte a = if a = s.cfg.aEnable.toNat then job.enable.bytes.getD 0 0 else s.regByte a) := by
  have hj := State.nextWrites_jobOk h hn hnext
  obtain ⟨-, -, -, hlen⟩ := jobOk_iff.mp hj
  have hreg := State.regByte_setRegs_single s.answered (a := s.cfg.aEnable.toNat) hlen
  have hsn : (s.answered.setRegs s.cfg.aEnable.toNat job.enable.bytes).session = s.session := State.setRegs_session ..
  rw [applyTurn_writes hnext, applyWrites_enable h hj ha hp]
  cases hc.startupClear with
  | true => exact ⟨_, rfl, by simp only [if_true, State.setApplying_session, hsn], hreg⟩
  | false =>
    exact ⟨_, rfl, by simp only [Bool.false_eq_true, if_false, State.enterRunning_session, hsn], hreg⟩

/-- A turn of ApplyingProfile that leaves watcher and edge alone is the step. -/
theorem step_of_applyTurn (hs : s.sound = true) (hsch : s.schedule = .setup :: rest)
    (hl : s.session.lifecycle = .applyingProfile) (hcfg : s.session.config = some hc)
    (ht : applyTurn hc { s with schedule := rest } = .next t) (hw : t.session.watcher = s.session.watcher)
    (he : t.session.edge = s.session.edge) : step s = .next t := by
  obtain ⟨-, -, hn, -⟩ := State.sound_iff.mp hs
  exact step_of_setup hn (hl ▸ rfl) hsch
    ((setupTurn_applying (s := { s with schedule := rest }) hcfg hl).trans ht) hw he

/-! ### The calls that begin setup and running (R157, R160, R179) -/

/-- `setupWithRetry` in `Unconfigured`. -/
theorem step_setupWithRetry (hsch : s.schedule = .call (.setupWithRetry hc) :: rest)
    (hl : s.session.lifecycle = .unconfigured) : step s = .next { s with
      schedule := rest, session := { s.session with lifecycle := .connecting, config := some hc } } :=
  step_of_turn_same_chip hsch (congrArg Host.Outcome.next (if_pos hl)) rfl

/-- The bus granted in `Connecting`. -/
theorem step_connect (hsch : s.schedule = .setup :: rest) (hcfg : s.session.config = some hc)
    (hl : s.session.lifecycle = .connecting) (ha : s.answer = .ok) : step s = .next { s.answered with
      schedule := rest, session := { s.session with lifecycle := .verifyingIdentity, bus := true } } := by
  have ht : runTurn .setup { s with schedule := rest } = .next (connect { s with schedule := rest }) :=
    setupTurn_connecting hcfg hl
  rw [connect_granted (s := { s with schedule := rest }) ha] at ht
  exact step_of_turn_same_chip hsch ht rfl

/-- `start` in `Running`. -/
theorem step_start (hsch : s.schedule = .call .start :: rest) (hl : s.session.lifecycle = .running) :
    step s = .next { s with
      schedule := rest
      session := { s.session with pollTimer := some Config.pollInterval, watcher := s.session.line } } :=
  step_of_turn_same_chip hsch (congrArg Host.Outcome.next (if_pos hl)) rfl

/-- The poll timer's tick with no poll in progress. -/
theorem step_pollFires (hsch : s.schedule = .pollFires :: rest) (hl : s.session.lifecycle = .running)
    (ht : s.session.pollTimer.isSome = true) (hp : s.session.poll = none) :
    step s = .next { s with schedule := rest, session := { s.session with poll := some .read } } :=
  step_of_turn_same_chip hsch (congrArg Host.Outcome.next (if_pos ⟨hl, ht, hp⟩)) rfl

/-- Settles O58: the acknowledged turns of the setup, and the runs that begin it and begin polling. -/
theorem lifecycleSetupAndStart : Obligations.LifecycleSetupAndStart := by
  refine ⟨fun s hc rest hsch hl ha => ?_, fun s hc job rest hs hsch hl hcfg ha hnext => ?_,
    fun s hc rest hs hsch hl hcfg ha hp => ?_, fun s rest hsch hl hp => ?_⟩
  · exact ⟨_, core_run_two (step_setupWithRetry hsch hl) (step_connect rfl rfl rfl ha), rfl, rfl, rfl⟩
  · obtain ⟨hcf, -, hn, -⟩ := State.sound_iff.mp hs
    refine ⟨fun w hw => ?_, fun hp => ?_⟩
    · obtain ⟨t, ht, hsn, hregs⟩ := applyTurn_component (s := { s with schedule := rest }) hcf hn hnext ha hw
      exact ⟨t, step_of_applyTurn hs hsch hl hcfg ht (by rw [hsn]) (by rw [hsn]), hsn, hregs⟩
    · obtain ⟨t, ht, hsn, hregs⟩ := applyTurn_enable (s := { s with schedule := rest }) hcf hn hnext ha hp
      exact ⟨t, step_of_applyTurn hs hsch hl hcfg ht (by rw [hsn]; split <;> rfl) (by rw [hsn]; split <;> rfl), hsn,
        hregs⟩
  · have ht := (applyTurn_clear (s := { s with schedule := rest }) hp).trans (applyClear_ok (hc := hc) ha)
    exact ⟨_, step_of_applyTurn hs hsch hl hcfg ht rfl rfl, rfl, rfl, fun _ => rfl⟩
  · exact ⟨_, core_run_two (step_start hsch hl) (step_pollFires rfl hl rfl hp), rfl, rfl, rfl⟩

end Sys2Proof.Machine
end

section
/-! PROOFS. The five reads of the Profile Service (R47, R48, R147): whatever the transport answers, a read changes the output
ports and the environment's counters alone, and a rejected one is handed to the caller as it is. -/

namespace Sys2Proof.Machine

variable {α : Type} {s : State} {landed : List Bool}

/-! ### A rejected read (R147) -/

theorem rdProfile_fail (h : CfgFacts s.cfg) (ha : s.answer = .fail landed) :
    rdProfile s = .fail .transport s.answered := by
  rw [rdProfile, readRegs_autoinc h.block_inside, State.answerRead_fail ha]; rfl

theorem rdThresh_fail (h : CfgFacts s.cfg) (ha : s.answer = .fail landed) :
    rdThresh s = .fail .transport s.answered := by
  rw [rdThresh, readRegs_autoinc h.threshold_inside, State.answerRead_fail ha]; rfl

theorem rdByte_fail (h : CfgFacts s.cfg) (a : BitVec 5) (ha : s.answer = .fail landed) :
    rdByte a s = .fail .transport s.answered := by
  rw [rdByte, readRegs_repeat h, State.answerRead_fail ha]; rfl

theorem rdStatus_fail (h : CfgFacts s.cfg) (ha : s.answer = .fail landed) :
    rdStatus s = .fail .transport s.answered := by
  rw [rdStatus, rdByte_fail h _ ha]; rfl

theorem rdData_fail (h : CfgFacts s.cfg) (ha : s.answer = .fail landed) :
    rdData s = .fail .transport s.answered := by
  rw [rdData, readRegs_autoinc h.data_inside, State.answerRead_fail ha]; rfl

/-! ### What a reading operation makes of the state (R48) -/

/-- `t` is `s` but for the output ports and the answer taken; if that answer was a failure, `t` only reports it. -/
structure ReadFrame (s t : State) : Prop where
  onlyPorts : ∃ out err, t = { s.answered with out := out, err := err }
  rejected : CfgFacts s.cfg → ∀ landed, s.answer = .fail landed → t = s.answered.raise .transport

/-- An action that ends only in the answered state, and fails with its request, has such an outcome. -/
theorem Slice.Ends.readFrame {x : Slice α} (hx : x.Ends (· = s.answered))
    (hf : CfgFacts s.cfg → ∀ landed, s.answer = .fail landed → x = .fail .transport s.answered) (f : α → Result) :
    Res.Ends (x.outcome f) (ReadFrame s) := by
  intro t ht
  constructor
  case onlyPorts =>
    have hports : Res.Ends (x.outcome f) fun t => ∃ out err, t = { s.answered with out := out, err := err } :=
      (hx.imp fun u hu => ⟨u.out, u.err, hu ▸ rfl⟩).outcome f
        (by rintro _ r ⟨-, -, rfl⟩; exact ⟨some r, none, rfl⟩)
        (by rintro _ e ⟨out, -, rfl⟩; exact ⟨out, some e, rfl⟩)
    exact hports t ht
  case rejected =>
    intro hc landed ha
    rw [hf hc landed ha] at ht
    cases ht; rfl

/-- Whichever of the five reads runs. -/
theorem exec_readFrame {i : Instr} (hi : i ∈ [Instr.rdProfile, .rdThresh, .rdId, .rdStatus, .rdData]) (s : State) :
    Res.Ends (exec i s) (ReadFrame s) := by
  simp only [List.mem_cons, List.not_mem_nil, or_false] at hi
  rcases hi with rfl | rfl | rfl | rfl | rfl
  · exact (rdProfile_ends s).readFrame (fun h _ ha => rdProfile_fail h ha) _
  · exact (rdThresh_ends s).readFrame (fun h _ ha => rdThresh_fail h ha) _
  · exact (rdId_ends s).readFrame (fun h _ ha => rdByte_fail h _ ha) _
  · exact (rdStatus_ends s).readFrame (fun h _ ha => rdStatus_fail h ha) _
  · exact (rdData_ends s).readFrame (fun h _ ha => rdData_fail h ha) _

/-- Settles O33: a read changes the output ports and the environment's counters alone, and the frame is read off. -/
theorem readOperationsFrame : Obligations.ReadOperationsFrame := by
  intro s t i hi ht
  obtain ⟨⟨out, err, rfl⟩, hrej⟩ := exec_readFrame hi s t ht
  exact ⟨fun _ => rfl, rfl, rfl, rfl, rfl, rfl, rfl, rfl, rfl, rfl, rfl,
    fun landed hcf ha => hrej ((cfgWellFormed_iff _).mp hcf) landed ha⟩

end Sys2Proof.Machine
end

section
/-! PROOFS. The decoder against the encoder (R55 to R58): every presentable operand comes back from its port, a selector
outside the table names no operation, and the foreground's step on such a selector raises `IllegalOp`. -/

namespace Sys2Proof

/-! ### Operands and their ports (R56, R89, R96) -/

theorem TimeOperand.finite_port {ms : TimeOperand} (h : ms.presentable = true) : .finite ms.port = ms := by
  cases ms with
  | finite q => rfl
  | nan | posInf | negInf => exact absurd h Bool.false_ne_true

/-- Of the literals the port carries `true` alone, and of the counts the integers, which their numerators are. -/
theorem FilterOperand.operand_port {filter : FilterOperand} (h : filter.presentable = true) :
    filter.port.operand = filter := by
  cases filter with
  | every => rfl
  | literal b => exact congrArg FilterOperand.literal (Eq.symm h)
  | count n => exact congrArg FilterOperand.count (Rat.coe_int_num_of_den_eq_one (beq_iff_eq.mp h))

/-! ### Encode, then decode (R55 to R57) -/

/-- The operands that pass through a narrower port are the times and the filter; every other one is its port's value. -/
theorem decode_encodeIssue {i : Instr} (h : i.wellFormed = true) : decode (encodeIssue i) = .ok i := by
  cases i with
  | encAtime ms => exact congrArg (fun t => Except.ok (Instr.encAtime t)) (TimeOperand.finite_port h)
  | encWtime ms => exact congrArg (fun t => Except.ok (Instr.encWtime t)) (TimeOperand.finite_port h)
  | encPers filter => exact congrArg (fun f => Except.ok (Instr.encPers f)) (FilterOperand.operand_port h)
  | _ => rfl

/-- Settles O1: the item is the encoder's own, and the decoder takes every operand from the port it was put on. -/
theorem decodeEncodeRoundTrip : Obligations.DecodeEncodeRoundTrip :=
  fun i h => ⟨encodeIssue i, if_pos h, decode_encodeIssue h⟩

/-! ### The reserved selectors (R58) -/

theorem decodeRequest_reserved {op : BitVec 5} (h : 21 ≤ op.toNat) (ports : Ports) :
    decodeRequest op ports = .error (.reservedSelector op) := by
  unfold decodeRequest
  split
  case h_22 => rfl
  all_goals omega

/-- A table word in the selector range decodes as a request with every port at zero. -/
theorem decodeTableWord_eq {w : Nat} (hw : w < 32) (nbits : Nat) :
    decodeTableWord nbits w = (decodeRequest (BitVec.ofNat 5 w) Ports.zero).toOption := by
  rw [decodeTableWord, if_pos hw, tableRequest, decode]
  cases decodeRequest (BitVec.ofNat 5 w) Ports.zero <;> rfl

theorem decodeTableWord_reserved {w : Nat} (h : 21 ≤ w) (hw : w < 32) (nbits : Nat) :
    decodeTableWord nbits w = none := by
  have hop : 21 ≤ (BitVec.ofNat 5 w).toNat := by rwa [BitVec.toNat_ofNat, Nat.mod_eq_of_lt hw]
  rw [decodeTableWord_eq hw, decodeRequest_reserved hop]; rfl

/-- Settles O2: the words of the table by their rows, the two ends of the reserved range as reserved selectors. -/
theorem selectorWordsDecode : Obligations.SelectorWordsDecode :=
  ⟨rfl, rfl, rfl, rfl, rfl, rfl, rfl, rfl, rfl, rfl, rfl, rfl, rfl, rfl,
    decodeTableWord_reserved (by decide) (by decide) 8, decodeTableWord_reserved (by decide) (by decide) 8⟩

end Sys2Proof

namespace Sys2Proof.Machine

/-- R58, as the foreground's turn over the queue (log 1). -/
theorem foreground_reserved {s : State} {op : BitVec 5} {ports : Ports} {rest : List HostCommand}
    (hq : s.queue = .issue (.request op ports) :: rest) (h : 21 ≤ op.toNat) :
    foreground s = .next ({ s with queue := rest }.raise (.domain (illegalOp op))) := by
  simp only [foreground, hq, decode, decodeRequest_reserved h]

/-- Settles O3: the step is the foreground's turn, which leaves the chip alone, so the watcher adds nothing. -/
theorem reservedSelectorRaisesIllegalOp : Obligations.ReservedSelectorRaisesIllegalOp := by
  intro s op ports rest hm hq h
  rw [step_of_foreground hm, foreground_reserved (s := { s with schedule := s.schedule.tail }) hq h]
  exact congrArg Host.Outcome.next (observeEdge_same_chip rfl)

end Sys2Proof.Machine
end

section
/-! PROOFS. The enable flags (R73 to R76): the encoder writes under the four masks alone, the decoder sees nothing outside
them, and under one-bit masks each of the two undoes the other. -/

namespace Sys2Proof.Machine

/-! ### One flag and its mask -/

/-- A flag's byte has no bit outside any mask that holds the flag's own. -/
theorem maskIf_and_not {m mask : Byte} (h : m &&& mask = m) (f : Bool) : maskIf f m &&& ~~~mask = 0 := by
  cases f with
  | false => exact BitVec.zero_and
  | true =>
    calc m &&& ~~~mask = (m &&& mask) &&& ~~~mask := by rw [h]
      _ = m &&& (mask &&& ~~~mask) := BitVec.and_assoc ..
      _ = 0 := by rw [BitVec.and_not_self]; exact BitVec.and_zero

/-- Under one bit the AND-test loses nothing. -/
theorem maskIf_testMask {m : Byte} (h : isOneBit m = true) (b : Byte) : maskIf (testMask b m) m = b &&& m := by
  have hm := isOneBit_ne_zero h
  obtain ⟨i, -, rfl⟩ := isOneBit_iff.mp h
  rw [maskIf, testMask, BitVec.and_twoPow]
  cases b.getLsbD i with
  | false => rfl
  | true => exact if_pos (bne_iff_ne.mpr hm)

/-- With the other bits 0, a read is the bits under the mask. -/
theorem blend_zero (mask b : Byte) : blend mask b 0 = b &&& mask := by
  unfold blend
  split
  next h => rw [h]; exact BitVec.and_allOnes.symm
  next => simp

/-! ### The four flags together -/

/-- Bits outside the four masks are always 0 (R74). -/
theorem enableByte_reserved (c : Cfg) (f : EnableFlags) :
    enableByte c f &&& ~~~(c.mPon ||| c.mAen ||| c.mWen ||| c.mAien) = 0 := by
  have hp := maskIf_and_not (and_or_of_and (and_or_of_and (and_or_self c.mPon c.mAen) c.mWen) c.mAien) f.powerOn
  have ha := maskIf_and_not (and_or_of_and (and_or_of_and (and_self_or c.mAen c.mPon) c.mWen) c.mAien) f.active
  have hw := maskIf_and_not (and_or_of_and (and_self_or c.mWen (c.mPon ||| c.mAen)) c.mAien) f.wait
  have hi := maskIf_and_not (and_self_or c.mAien (c.mPon ||| c.mAen ||| c.mWen)) f.interrupts
  simp only [enableByte, BitVec.and_or_distrib_right, hp, ha, hw, hi]
  rfl

/-- Bits outside the four masks are ignored (R75): the register's reserved bits are no flag's. -/
theorem enableFlags_reserved (c : Cfg) (b : Byte) :
    enableFlags c b = enableFlags c (b &&& (c.mPon ||| c.mAen ||| c.mWen ||| c.mAien)) := by
  rw [← blend_zero, enableFlags_blend]

/-- Encoding the decoded flags keeps the bits of the masks (R76). -/
theorem CfgFacts.enableByte_enableFlags {c : Cfg} (h : CfgFacts c) (b : Byte) :
    enableByte c (enableFlags c b) = b &&& (c.mPon ||| c.mAen ||| c.mWen ||| c.mAien) := by
  have hm := h.masks
  simp only [List.mem_cons, List.not_mem_nil, or_false, forall_eq_or_imp, forall_eq] at hm
  obtain ⟨hp, ha, hw, hi, -⟩ := hm
  simp only [enableByte, enableFlags, maskIf_testMask hp, maskIf_testMask ha, maskIf_testMask hw, maskIf_testMask hi,
    BitVec.and_or_distrib_left]

/-! ### The two operations -/

theorem exec_encEnable (powerOn active wait interrupts : Bool) (s : State) :
    exec (.encEnable powerOn active wait interrupts) s
      = .next (s.accept (.byte (enableByte s.cfg ⟨powerOn, active, wait, interrupts⟩))) := rfl

theorem exec_decEnable (b : Byte) (s : State) :
    exec (.decEnable b) s = .next (s.accept (.enableFlags (enableFlags s.cfg b))) := rfl

/-- Settles O6: each operation accepts its codec function's result, and that function respects the reserved bits. -/
theorem enableOperations : Obligations.EnableOperations :=
  ⟨fun s p a w i => exec_encEnable p a w i s, enableByte_reserved, fun s b => exec_decEnable b s, enableFlags_reserved⟩

/-- Settles O7: decoding recovers each flag since the masks are apart, encoding each masked bit since each is one. -/
theorem enableRoundTrip : Obligations.EnableRoundTrip := fun c hc =>
  have h := (cfgWellFormed_iff c).mp hc
  ⟨h.enableFlags_enableByte, h.enableByte_enableFlags⟩

end Sys2Proof.Machine
end

section
/-! PROOFS. The timing codec (R77 to R89). Both encoders look for the byte whose count is the floor of a quotient; what
that byte is, when there is one, and what its count says about the time are settled once, for any step. -/

namespace Sys2Proof.Machine

/-! ### The byte of a count (R65) -/

theorem exists_byteCount {n : Int} (h1 : 1 ≤ n) (h2 : n ≤ 256) : ∃ b : Byte, byteCount b = n :=
  ⟨countByte n, byteCount_countByte h1 h2⟩

theorem encodeCount_ok_iff {field : ErrorField} {ms : TimeOperand} {n : Int} {b : Byte} :
    encodeCount field ms n = .ok b ↔ byteCount b = n := by
  obtain ⟨h1, h2⟩ := byteCount_range b
  unfold encodeCount
  split
  next h => exact iff_of_false nofun (by omega)
  next h =>
    rw [Except.ok.injEq]
    constructor
    · rintro rfl; exact byteCount_countByte (by omega) (by omega)
    · rintro rfl; exact countByte_byteCount b

theorem encodeCount_error (field : ErrorField) (ms : TimeOperand) {n : Int} (h : n < 1 ∨ 256 < n) :
    encodeCount field ms n = .error (rangeError field (.time ms)) := if_pos h

/-- Rounding toward zero differs from the floor only on negative quotients, which have no byte either way (R82). -/
theorem encodeCount_truncQ (field : ErrorField) (ms : TimeOperand) (x : Q) :
    encodeCount field ms (truncQ x) = encodeCount field ms ⌊x⌋ := by
  rcases le_total 0 x with h | h
  · rw [truncQ_of_nonneg h]
  · have ht : truncQ x < 1 := Int.lt_add_one_of_le (truncQ_of_nonpos h)
    have hf : ⌊x⌋ < 1 := Int.floor_lt.mpr (by rw [Int.cast_one]; linarith)
    rw [encodeCount_error _ _ (.inl ht), encodeCount_error _ _ (.inl hf)]

/-! ### The byte of a quotient, for any step -/

section Quotient

variable {step q : Q} {b : Byte}

/-- The byte's time is at most the time asked for, and less than one step below it. -/
theorem byteCount_eq_floor_iff (hs : 0 < step) :
    byteCount b = ⌊q / step⌋ ↔ (byteCount b : Q) * step ≤ q ∧ q < (byteCount b : Q) * step + step := by
  rw [eq_comm, Int.floor_eq_iff, le_div_iff₀ hs, div_lt_iff₀ hs, add_mul, one_mul]

/-- The floor gives the count of a byte back from its own time. -/
theorem byteCount_eq_floor_mul (hs : 0 < step) (b : Byte) : byteCount b = ⌊(byteCount b : Q) * step / step⌋ := by
  rw [mul_div_cancel_right₀ _ hs.ne', Int.floor_intCast]

/-- A time of 1 to 257 steps, the end excluded, has a byte. -/
theorem exists_byteCount_eq_floor (hs : 0 < step) (h1 : step ≤ q) (h2 : q < 257 * step) :
    ∃ b : Byte, byteCount b = ⌊q / step⌋ := by
  have hlo : 1 ≤ ⌊q / step⌋ := Int.le_floor.mpr (by rwa [Int.cast_one, le_div_iff₀ hs, one_mul])
  have hhi : ⌊q / step⌋ < 257 := Int.floor_lt.mpr (by rwa [div_lt_iff₀ hs])
  exact exists_byteCount hlo (Int.le_of_lt_add_one hhi)

/-- Every other time is out of range. -/
theorem encodeCount_floor_error (field : ErrorField) (ms : TimeOperand) (hs : 0 < step)
    (h : q < step ∨ 257 * step ≤ q) :
    encodeCount field ms ⌊q / step⌋ = .error (rangeError field (.time ms)) := by
  refine encodeCount_error _ _ (h.imp (fun h => ?_) fun h => ?_)
  · exact Int.floor_lt.mpr (by rwa [Int.cast_one, div_lt_iff₀ hs, one_mul])
  · exact Int.lt_of_add_one_le (Int.le_floor.mpr (by rwa [le_div_iff₀ hs]))

/-- From 256 steps on the byte is the one of the greatest count. -/
theorem byteCount_saturates (hs : 0 < step) (hq : 256 * step ≤ q) (h : byteCount b = ⌊q / step⌋) :
    byteCount b = 256 := by
  have hlo : 256 ≤ byteCount b := h ▸ Int.le_floor.mpr (by rwa [le_div_iff₀ hs])
  exact le_antisymm (byteCount_range b).2 hlo

/-- The times of the 256 bytes lie between one step and 256. -/
theorem byteCount_mul_range (hs : 0 < step) (b : Byte) :
    step ≤ (byteCount b : Q) * step ∧ (byteCount b : Q) * step ≤ 256 * step := by
  obtain ⟨h1, h2⟩ := byteCount_range b
  have h1 : (1 : Q) ≤ byteCount b := by exact_mod_cast h1
  have h2 : (byteCount b : Q) ≤ 256 := by exact_mod_cast h2
  exact ⟨le_mul_of_one_le_left hs.le h1, mul_le_mul_of_nonneg_right h2 hs.le⟩

end Quotient

/-! ### The integration time (R78 to R80) -/

theorem encodeAtime_finite (q : Q) :
    encodeAtime (.finite q) = encodeCount .integrationTimeMs (.finite q) ⌊q / (12 / 5)⌋ := by
  rw [encodeAtime, floorQ_eq, stepMs]

theorem encodeAtime_ok_iff {q : Q} {b : Byte} :
    encodeAtime (.finite q) = .ok b ↔ byteCount b = ⌊q / (12 / 5)⌋ := by
  rw [encodeAtime_finite, encodeCount_ok_iff]

theorem exists_encodeAtime {q : Q} (h1 : 12 / 5 ≤ q) (h2 : q < 3084 / 5) :
    ∃ b, encodeAtime (.finite q) = .ok b ∧ byteCount b = ⌊q / (12 / 5)⌋ := by
  obtain ⟨b, hb⟩ := exists_byteCount_eq_floor (by norm_num) h1 (by linarith)
  exact ⟨b, encodeAtime_ok_iff.mpr hb, hb⟩

theorem encodeAtime_error {q : Q} (h : q < 12 / 5 ∨ 3084 / 5 ≤ q) :
    encodeAtime (.finite q) = .error (rangeError .integrationTimeMs (.time (.finite q))) := by
  rw [encodeAtime_finite, encodeCount_floor_error _ _ (by norm_num) (h.imp_right fun h => by linarith)]

/-- A time that is not a finite number (R89). -/
theorem encodeAtime_nonFinite {t : TimeOperand} (h : t = .nan ∨ t = .posInf ∨ t = .negInf) :
    encodeAtime t = .error (rangeError .integrationTimeMs (.time t)) := by
  rcases h with rfl | rfl | rfl <;> rfl

theorem decodeAtime_timeMs (b : Byte) : (decodeAtime b).timeMs = (byteCount b : Q) * (12 / 5) := rfl

theorem exec_encAtime (ms : TimeOperand) (s : State) :
    exec (.encAtime ms) s = .next (s.settle ((encodeAtime ms).map .byte)) := rfl

theorem exec_encAtime_ok {ms : TimeOperand} {b : Byte} (h : encodeAtime ms = .ok b) (s : State) :
    exec (.encAtime ms) s = .next (s.accept (.byte b)) := by
  rw [exec_encAtime, h]; rfl

theorem exec_encAtime_error {ms : TimeOperand} {e : OpError} (h : encodeAtime ms = .error e) (s : State) :
    exec (.encAtime ms) s = .next (s.raise (.domain e)) := by
  rw [exec_encAtime, h]; rfl

theorem exec_decAtime (b : Byte) (s : State) :
    exec (.decAtime b) s = .next (s.accept (.integrationTiming (decodeAtime b))) := rfl

/-- Settles O8: a legal time has the byte of its floored quotient, every other one a range error. -/
theorem encAtimeQuantises : Obligations.EncAtimeQuantises := by
  refine fun s q => ⟨fun ⟨h1, h2⟩ => ?_, fun h => exec_encAtime_error (encodeAtime_error h) s⟩
  obtain ⟨b, hok, hb⟩ := exists_encodeAtime h1 h2
  exact ⟨b, exec_encAtime_ok hok s, hb⟩

/-- Settles O9: the formulas are the decoder's own, and the bounds those of a byte's count. -/
theorem decAtimeResult : Obligations.DecAtimeResult := by
  intro s b
  obtain ⟨h1, h2⟩ := byteCount_range b
  obtain ⟨hlo, hhi⟩ := byteCount_mul_range (step := 12 / 5) (by norm_num) b
  refine ⟨exec_decAtime b s, h1, h2, ?_, ?_⟩ <;> rw [decodeAtime_timeMs] <;> linarith

theorem encodeAtime_decodeAtime (b : Byte) : encodeAtime (.finite (decodeAtime b).timeMs) = .ok b := by
  rw [decodeAtime_timeMs, encodeAtime_ok_iff]
  exact byteCount_eq_floor_mul (by norm_num) b

theorem encodeAtime_antitone {q r : Q} {b d : Byte} (hqr : q ≤ r) (hb : encodeAtime (.finite q) = .ok b)
    (hd : encodeAtime (.finite r) = .ok d) : d.toNat ≤ b.toNat := by
  have h : byteCount b ≤ byteCount d := by
    calc byteCount b = ⌊q / (12 / 5)⌋ := encodeAtime_ok_iff.mp hb
      _ ≤ ⌊r / (12 / 5)⌋ := Int.floor_le_floor (div_le_div_of_nonneg_right hqr (by norm_num))
      _ = byteCount d := (encodeAtime_ok_iff.mp hd).symm
  unfold byteCount at h
  omega

/-- Settles O10: each law is one about the count of the byte, which is the floor of the quotient. -/
theorem integrationTimeLaws : Obligations.IntegrationTimeLaws := by
  refine ⟨encodeAtime_decodeAtime, fun q h1 h2 => ?_, fun q r b d => encodeAtime_antitone⟩
  obtain ⟨b, hok, hb⟩ := exists_encodeAtime h1 h2
  obtain ⟨hle, hlt⟩ := (byteCount_eq_floor_iff (by norm_num)).mp hb
  refine ⟨b, hok, hle, hlt, fun hq => ?_⟩
  rw [decodeAtime_timeMs, byteCount_saturates (by norm_num) (by linarith) hb]
  norm_num

/-! ### The wait time (R81 to R87) -/

theorem waitStep_short : waitStep false = 12 / 5 := rfl

theorem waitStep_long : waitStep true = 144 / 5 := by
  rw [waitStep, if_pos rfl, longStepMs, longMult, stepMs]; norm_num

theorem waitStep_pos (l : Bool) : 0 < waitStep l := by
  cases l with
  | false => rw [waitStep_short]; norm_num
  | true => rw [waitStep_long]; norm_num

/-- The long regime is taken strictly above 614.4 ms (R81). -/
theorem longRegime_iff {q : Q} : longRegime q = true ↔ 3072 / 5 < q := by
  have h : shortMaxMs = 3072 / 5 := by rw [shortMaxMs, stepMs]; norm_num
  rw [longRegime, decide_eq_true_iff, h]

theorem longRegime_eq_false_iff {q : Q} : longRegime q = false ↔ q ≤ 3072 / 5 := by
  rw [← Bool.not_eq_true, longRegime_iff, not_lt]

/-- The wait of a count is so many steps of its regime (R84). -/
theorem formatWtime_eq (n : Int) (l : Bool) : formatWtime n l = n * waitStep l := by
  cases l with
  | false => exact mul_one _
  | true => exact (mul_assoc _ _ _).trans (congrArg _ (mul_comm _ _))

theorem decodeWtime_count (b : Byte) : (decodeWtime b).count = byteCount b := rfl

/-- The long flag survives CONFIG (R85, R86). -/
theorem CfgFacts.decodeConfig_encodeConfig {c : Cfg} (h : CfgFacts c) (l : Bool) :
    decodeConfig c (encodeConfig c l) = l :=
  testMask_maskIf_self (isOneBit_ne_zero (h.masks c.mWlong (by simp))) l

theorem encodeWtime_finite (q : Q) : encodeWtime (.finite q) =
    (encodeCount .waitTimeMs (.finite q) ⌊q / waitStep (longRegime q)⌋).map fun b => (b, longRegime q) := by
  rw [encodeWtime, encodeCount_truncQ]

theorem encodeWtime_ok_iff {q : Q} {b : Byte} {l : Bool} :
    encodeWtime (.finite q) = .ok (b, l) ↔ longRegime q = l ∧ byteCount b = ⌊q / waitStep l⌋ := by
  rw [encodeWtime_finite]
  constructor
  · cases h : encodeCount .waitTimeMs (.finite q) ⌊q / waitStep (longRegime q)⌋ with
    | error e => exact nofun
    | ok d => rintro ⟨⟩; exact ⟨rfl, encodeCount_ok_iff.mp h⟩
  · rintro ⟨rfl, h⟩
    rw [encodeCount_ok_iff.mpr h]; rfl

theorem exists_encodeWtime {q : Q} {l : Bool} (hl : longRegime q = l) (h1 : waitStep l ≤ q)
    (h2 : q < 257 * waitStep l) : ∃ b, encodeWtime (.finite q) = .ok (b, l) ∧ byteCount b = ⌊q / waitStep l⌋ := by
  obtain ⟨b, hb⟩ := exists_byteCount_eq_floor (waitStep_pos l) h1 h2
  exact ⟨b, encodeWtime_ok_iff.mpr ⟨hl, hb⟩, hb⟩

/-- Below 2.4 ms the regime is the short one, from 7401.6 ms on the long one (R82). -/
theorem encodeWtime_error {q : Q} (h : q < 12 / 5 ∨ 37008 / 5 ≤ q) :
    encodeWtime (.finite q) = .error (rangeError .waitTimeMs (.time (.finite q))) := by
  have hout : q < waitStep (longRegime q) ∨ 257 * waitStep (longRegime q) ≤ q := by
    rcases h with h | h
    · rw [longRegime_eq_false_iff.mpr (by linarith), waitStep_short]; exact .inl h
    · rw [longRegime_iff.mpr (by linarith), waitStep_long]; exact .inr (by linarith)
  rw [encodeWtime_finite, encodeCount_floor_error _ _ (waitStep_pos _) hout]; rfl

/-- A time that is not a finite number (R89). -/
theorem encodeWtime_nonFinite {t : TimeOperand} (h : t = .nan ∨ t = .posInf ∨ t = .negInf) :
    encodeWtime t = .error (rangeError .waitTimeMs (.time t)) := by
  rcases h with rfl | rfl | rfl <;> rfl

theorem exec_encWtime (ms : TimeOperand) (s : State) :
    exec (.encWtime ms) s = .next (s.settle ((encodeWtime ms).map fun w => .byteAndLongFlag w.1 w.2)) := rfl

theorem exec_encWtime_ok {ms : TimeOperand} {b : Byte} {l : Bool} (h : encodeWtime ms = .ok (b, l)) (s : State) :
    exec (.encWtime ms) s = .next (s.accept (.byteAndLongFlag b l)) := by
  rw [exec_encWtime, h]; rfl

theorem exec_encWtime_error {ms : TimeOperand} {e : OpError} (h : encodeWtime ms = .error e) (s : State) :
    exec (.encWtime ms) s = .next (s.raise (.domain e)) := by
  rw [exec_encWtime, h]; rfl

theorem exec_decWtime (b : Byte) (s : State) :
    exec (.decWtime b) s = .next (s.accept (.waitTiming (decodeWtime b))) := rfl

theorem exec_fmtWtime (n : Int) (l : Bool) (s : State) :
    exec (.fmtWtime n l) s = .next (s.accept (.timeMs (n * waitStep l))) :=
  congrArg (fun t => Host.Outcome.next (s.accept (.timeMs t))) (formatWtime_eq n l)

theorem exec_encConfig (l : Bool) (s : State) :
    exec (.encConfig l) s = .next (s.accept (.byte (encodeConfig s.cfg l))) := rfl

theorem exec_decConfig (b : Byte) (s : State) :
    exec (.decConfig b) s = .next (s.accept (.wlong (decodeConfig s.cfg b))) := rfl

/-- Settles O11: the regime is the request's, and in each regime the byte is that of the floored quotient. -/
theorem encWtimeChoosesRegime : Obligations.EncWtimeChoosesRegime := by
  refine fun s q => ⟨fun ⟨h1, h2⟩ => ?_, fun ⟨h1, h2⟩ => ?_, fun h => exec_encWtime_error (encodeWtime_error h) s⟩
  · obtain ⟨b, hok, hb⟩ := exists_encodeWtime (longRegime_eq_false_iff.mpr h2)
      (by rwa [waitStep_short]) (by rw [waitStep_short]; linarith)
    exact ⟨b, exec_encWtime_ok hok s, hb⟩
  · obtain ⟨b, hok, hb⟩ := exists_encodeWtime (longRegime_iff.mpr h1)
      (by rw [waitStep_long]; linarith) (by rw [waitStep_long]; linarith)
    exact ⟨b, exec_encWtime_ok hok s, by rwa [waitStep_long] at hb⟩

/-- Settles O12: neither encoder looks further at such a time. -/
theorem nonFiniteTimesRejected : Obligations.NonFiniteTimesRejected := fun s _ h =>
  ⟨exec_encAtime_error (encodeAtime_nonFinite h) s, exec_encWtime_error (encodeWtime_nonFinite h) s⟩

/-- Settles O13: each operation accepts its codec function's result, and twelve short steps are a long one. -/
theorem waitTimeOperations : Obligations.WaitTimeOperations := by
  refine ⟨fun s b => exec_decWtime b s, fun s n => exec_fmtWtime n false s, fun s n => ?_,
    fun s f => exec_encConfig f s, fun s b => exec_decConfig b s⟩
  rw [exec_fmtWtime, waitStep_long]; rfl

/-- Encoding the wait of a byte gives the byte back exactly when the wait selects the regime it was formatted in. -/
theorem encodeWtime_formatWtime_iff {b : Byte} {l : Bool} :
    encodeWtime (.finite (formatWtime (decodeWtime b).count l)) = .ok (b, l)
      ↔ longRegime (byteCount b * waitStep l) = l := by
  rw [decodeWtime_count, formatWtime_eq, encodeWtime_ok_iff]
  exact and_iff_left (byteCount_eq_floor_mul (waitStep_pos l) b)

/-- No byte's short wait is above 614.4 ms. -/
theorem longRegime_short (b : Byte) : longRegime (byteCount b * waitStep false) = false := by
  obtain ⟨-, h⟩ := byteCount_mul_range (waitStep_pos false) b
  rw [longRegime_eq_false_iff]
  exact h.trans (by rw [waitStep_short]; norm_num)

/-- 21 long steps are 604.8 ms, 22 are 633.6 ms. -/
theorem longRegime_long_iff (b : Byte) : longRegime (byteCount b * waitStep true) = true ↔ 22 ≤ byteCount b := by
  rw [longRegime_iff, waitStep_long]
  constructor
  · intro h
    have : (21 : Q) < byteCount b := by linarith
    exact_mod_cast this
  · intro h
    have : (22 : Q) ≤ byteCount b := by exact_mod_cast h
    linarith

/-- A legal wait comes back rounded down by less than one step of its regime, and as 7372.8 from there on (R87). -/
theorem formatWtime_of_encodeWtime {q : Q} {b : Byte} {l : Bool} (h : encodeWtime (.finite q) = .ok (b, l)) :
    formatWtime (decodeWtime b).count l ≤ q ∧ q - formatWtime (decodeWtime b).count l < waitStep l
      ∧ (36864 / 5 ≤ q → formatWtime (decodeWtime b).count l = 36864 / 5) := by
  obtain ⟨hl, hb⟩ := encodeWtime_ok_iff.mp h
  obtain ⟨hle, hlt⟩ := (byteCount_eq_floor_iff (waitStep_pos l)).mp hb
  rw [decodeWtime_count, formatWtime_eq]
  refine ⟨hle, sub_lt_iff_lt_add'.mpr hlt, fun hq => ?_⟩
  obtain rfl : l = true := hl.symm.trans (longRegime_iff.mpr (by linarith))
  rw [byteCount_saturates (waitStep_pos true) (by rw [waitStep_long]; linarith) hb, waitStep_long]
  norm_num

/-- Settles O14: CONFIG carries the flag, and a byte comes back exactly when its wait selects its own regime. -/
theorem waitTimeLaws : Obligations.WaitTimeLaws := by
  intro c hc
  refine ⟨fun q b l h => ?_, fun b => encodeWtime_formatWtime_iff.mpr (longRegime_short b),
    fun b => encodeWtime_formatWtime_iff.trans (longRegime_long_iff b)⟩
  rw [((cfgWellFormed_iff c).mp hc).decodeConfig_encodeConfig]
  obtain ⟨hle, hlt, hsat⟩ := formatWtime_of_encodeWtime h
  refine ⟨hle, ?_, ?_, hsat⟩
  · rintro rfl; exact hlt
  · rintro rfl; rwa [waitStep_long] at hlt

end Sys2Proof.Machine
end

section
/-! PROOFS. The threshold codec (R91 to R94). The bounds the encoder takes are the words, so the windows it takes are
the pairs of words, and a pair of words and its four bytes determine each other; the laws are read off that. -/

namespace Sys2Proof.Machine

/-! ### A word and its two bytes (R10, R41) -/

theorem wordBytes_eq_ofInt (w : Word) :
    wordBytes w = [BitVec.ofInt 8 ((w.toNat : Int) % 256), BitVec.ofInt 8 ((w.toNat : Int) / 256 % 256)] := by
  rw [wordBytes, lo8, hi8, ← BitVec.ofInt_natCast, ← BitVec.ofInt_natCast]
  push_cast; rfl

theorem wordBytes_le16 (lo hi : Byte) : wordBytes (le16 lo hi) = [lo, hi] := by
  rw [wordBytes, lo8_le16, hi8_le16]

/-- A word is read back from its two bytes. -/
theorem wordBytes_inj {v w : Word} : wordBytes v = wordBytes w ↔ (v.toNat : Int) = w.toNat := by
  refine ⟨fun h => ?_, fun h => congrArg wordBytes (BitVec.toNat_inj.mp (Int.natCast_inj.mp h))⟩
  simp only [wordBytes, List.cons.injEq, and_true] at h
  obtain ⟨hlo, hhi⟩ := h
  rw [← le16_lo8_hi8 v, ← le16_lo8_hi8 w, hlo, hhi]

/-! ### A window and its four bytes (R66) -/

/-- Every four bytes are those of a window. -/
theorem exists_bandBytes {bs : List Byte} (h : bs.length = 4) : ∃ b : Band, bs = bandBytes b := by
  obtain ⟨b0, b1, b2, b3, rfl⟩ := List.length_eq_four.mp h
  exact ⟨{ low := le16 b0 b1, high := le16 b2 b3 }, by simp only [bandBytes, wordBytes_le16]; rfl⟩

theorem bandBytes_take_two (b : Band) : (bandBytes b).take 2 = wordBytes b.low := rfl

theorem bandBytes_drop_two (b : Band) : (bandBytes b).drop 2 = wordBytes b.high := rfl

/-! ### The encoder (R92) -/

/-- The bounds in the encoder's domain are the values of the words. -/
theorem inWordRange_iff {v : Int} : inWordRange v = true ↔ ∃ w : Word, (w.toNat : Int) = v := by
  simp only [inWordRange, Bool.and_eq_true, decide_eq_true_eq]
  constructor
  · rintro ⟨h0, h1⟩
    exact ⟨BitVec.ofNat 16 v.toNat, by rw [BitVec.toNat_ofNat]; omega⟩
  · rintro ⟨w, rfl⟩
    have := w.isLt
    omega

theorem exists_word {v : Int} (h0 : 0 ≤ v) (h1 : v ≤ 0xFFFF) : ∃ w : Word, (w.toNat : Int) = v :=
  inWordRange_iff.mp (by simp [inWordRange, h0, h1])

theorem inWordRange_eq_false {v : Int} (h : v < 0 ∨ 0xFFFF < v) : inWordRange v = false := by
  simp only [inWordRange, Bool.and_eq_false_iff, decide_eq_false_iff_not]
  omega

theorem encodeThreshold_band (b : Band) : encodeThreshold b.low.toNat b.high.toNat = .ok (bandBytes b) := by
  have hl := inWordRange_iff.mpr ⟨b.low, rfl⟩
  have hh := inWordRange_iff.mpr ⟨b.high, rfl⟩
  simp [encodeThreshold, hl, hh]

theorem encodeThreshold_low_error {low : Int} (h : inWordRange low = false) (high : Int) :
    encodeThreshold low high = .error (rangeError .thresholdLow (.int low)) := by
  simp [encodeThreshold, h]

theorem encodeThreshold_high_error {low high : Int} (hl : inWordRange low = true) (hh : inWordRange high = false) :
    encodeThreshold low high = .error (rangeError .thresholdHigh (.int high)) := by
  simp [encodeThreshold, hl, hh]

/-- The encoder takes the windows of words alone, and gives each its four bytes. -/
theorem encodeThreshold_ok_iff {low high : Int} {bs : List Byte} :
    encodeThreshold low high = .ok bs
      ↔ ∃ b : Band, (b.low.toNat : Int) = low ∧ (b.high.toNat : Int) = high ∧ bs = bandBytes b := by
  constructor
  · intro h
    cases hl : inWordRange low with
    | false => rw [encodeThreshold_low_error hl] at h; exact nomatch h
    | true =>
    cases hh : inWordRange high with
    | false => rw [encodeThreshold_high_error hl hh] at h; exact nomatch h
    | true =>
    obtain ⟨l, rfl⟩ := inWordRange_iff.mp hl
    obtain ⟨u, rfl⟩ := inWordRange_iff.mp hh
    exact ⟨⟨l, u⟩, rfl, rfl, (Except.ok.inj ((encodeThreshold_band ⟨l, u⟩).symm.trans h)).symm⟩
  · rintro ⟨b, rfl, rfl, rfl⟩
    exact encodeThreshold_band b

theorem exec_encThresh (low high : Int) (s : State) :
    exec (.encThresh low high) s = .next (s.settle ((encodeThreshold low high).map .bytes)) := rfl

theorem exec_encThresh_error {low high : Int} {e : OpError} (h : encodeThreshold low high = .error e) (s : State) :
    exec (.encThresh low high) s = .next (s.raise (.domain e)) := by
  rw [exec_encThresh, h]; rfl

theorem exec_encThresh_band (b : Band) (s : State) :
    exec (.encThresh b.low.toNat b.high.toNat) s = .next (s.accept (.bytes (bandBytes b))) := by
  rw [exec_encThresh, encodeThreshold_band]; rfl

/-- Settles O15: two words have the bytes of their window, and of two bounds the first that is no word is reported. -/
theorem encThreshBytes : Obligations.EncThreshBytes := by
  refine fun s low high => ⟨fun ⟨hl0, hl1, hh0, hh1⟩ => ?_, fun h => ?_, fun ⟨⟨hl0, hl1⟩, h⟩ => ?_⟩
  · obtain ⟨l, rfl⟩ := exists_word hl0 hl1
    obtain ⟨u, rfl⟩ := exists_word hh0 hh1
    rw [exec_encThresh_band ⟨l, u⟩, bandBytes, wordBytes_eq_ofInt, wordBytes_eq_ofInt]; rfl
  · exact exec_encThresh_error (encodeThreshold_low_error (inWordRange_eq_false h) high) s
  · have hl := inWordRange_iff.mpr (exists_word hl0 hl1)
    exact exec_encThresh_error (encodeThreshold_high_error hl (inWordRange_eq_false h)) s

/-! ### The decoder (R93) -/

theorem decodeThreshold_cons (b0 b1 b2 b3 : Byte) (rest : List Byte) :
    decodeThreshold (b0 :: b1 :: b2 :: b3 :: rest) = .ok { low := le16 b0 b1, high := le16 b2 b3 } := by
  have h : ¬ (b0 :: b1 :: b2 :: b3 :: rest).length < 4 := by simp
  rw [decodeThreshold, if_neg h]; rfl

theorem decodeThreshold_short {bs : List Byte} (h : bs.length < 4) :
    decodeThreshold bs = .error (lengthError .threshold bs.length) := if_pos h

theorem exec_decThresh (bs : List Byte) (s : State) :
    exec (.decThresh bs) s = .next (s.settle ((decodeThreshold bs).map .band)) := rfl

/-- Settles O16: the first four bytes are two little-endian words, and fewer are a length error. -/
theorem decThreshWords : Obligations.DecThreshWords := by
  refine ⟨fun s b0 b1 b2 b3 rest => ?_, fun s bs h => ?_⟩
  · refine ⟨{ low := le16 b0 b1, high := le16 b2 b3 }, ?_, le16_toNat b0 b1, le16_toNat b2 b3⟩
    rw [exec_decThresh, decodeThreshold_cons]; rfl
  · rw [exec_decThresh, decodeThreshold_short h]; rfl

/-! ### The laws (R94) -/

/-- A window comes back from its four bytes. -/
theorem decodeThreshold_bandBytes (b : Band) : decodeThreshold (bandBytes b) = .ok b := by
  refine (decodeThreshold_cons (lo8 b.low) (hi8 b.low) (lo8 b.high) (hi8 b.high) []).trans ?_
  rw [le16_lo8_hi8, le16_lo8_hi8]

/-- Settles O17: four bytes and a window of words determine each other, and the two halves of the bytes are the bytes
of its two words. -/
theorem thresholdRoundTrip : Obligations.ThresholdRoundTrip := by
  refine ⟨fun low high hl0 hl1 hh0 hh1 => ?_, fun bs hlen => ?_, fun l h l' h' bs bs' he he' => ?_⟩
  · obtain ⟨l, rfl⟩ := exists_word hl0 hl1
    obtain ⟨u, rfl⟩ := exists_word hh0 hh1
    exact ⟨_, ⟨l, u⟩, encodeThreshold_band ⟨l, u⟩, decodeThreshold_bandBytes _, rfl, rfl⟩
  · obtain ⟨b, rfl⟩ := exists_bandBytes hlen
    exact ⟨b, decodeThreshold_bandBytes b, encodeThreshold_band b⟩
  · obtain ⟨b, rfl, rfl, rfl⟩ := encodeThreshold_ok_iff.mp he
    obtain ⟨b', rfl, rfl, rfl⟩ := encodeThreshold_ok_iff.mp he'
    rw [bandBytes_take_two, bandBytes_take_two, bandBytes_drop_two, bandBytes_drop_two]
    exact ⟨wordBytes_inj, wordBytes_inj⟩

end Sys2Proof.Machine
end

section
/-! PROOFS. The persistence and gain enumerations (R96 to R103). Each encoder names a key of its table, or none; the
field gives back the code put into it, and keys and codes determine each other (Laws/Enumerations), so each round trip
is a chain of two inverses. -/

namespace Sys2Proof.Machine

variable {c : Cfg}

/-! ### Persistence: operands and keys (R96, R97) -/

/-- The operand by which a caller names a logical persistence value (R96). -/
def filterOperand : Filter → FilterOperand
  | .every => .every
  | .count n => .count n

/-- The three spellings of `every` are its key. -/
theorem filterKey_every {f : FilterOperand} (h : f = .every ∨ f = .literal true ∨ f = .count 0) :
    filterKey f = some .every := by
  obtain rfl | rfl | rfl := h
  · rfl
  · rfl
  · rw [filterKey, if_pos rfl]

theorem mem_persKeys {f : Filter} : f ∈ persKeys ↔ f = .every ∨ ∃ n ∈ persCounts, f = .count n := by
  simp only [persKeys, List.mem_cons, List.mem_map, eq_comm]

/-- A key is the key of the operand that names it. -/
theorem filterKey_filterOperand {f : Filter} (hf : f ∈ persKeys) : filterKey (filterOperand f) = some f := by
  obtain rfl | ⟨n, hn, rfl⟩ := mem_persKeys.mp hf
  · rfl
  · exact filterKey_count hn

/-- `false` and a number that is neither 0 nor a listed count are no key (decision D17). -/
theorem filterKey_none {f : FilterOperand}
    (h : f = .literal false ∨ ∃ q : Q, f = .count q ∧ ∀ n ∈ 0 :: persCounts, q ≠ Nat.cast n) : filterKey f = none := by
  obtain rfl | ⟨q, rfl, hq⟩ := h
  · rfl
  · rw [List.forall_mem_cons, Nat.cast_zero] at hq
    obtain ⟨h0, hcounts⟩ := hq
    have hfind : (persCounts.find? fun k : Nat => decide ((Nat.cast k : Q) = q)) = none :=
      List.find?_eq_none.mpr fun n hn => by simpa using (hcounts n hn).symm
    simp only [filterKey, if_neg h0, hfind, Option.map_none]

/-- After `every`, the keys are the counts in their order. -/
theorem persKeys_count {i n : Nat} (h : persCounts[i]? = some n) : persKeys[i + 1]? = some (.count n) := by
  rw [persKeys, List.getElem?_cons_succ, List.getElem?_map, h]; rfl

/-! ### Persistence: the codec functions (R97, R98) -/

theorem encodePers_of_key {f : FilterOperand} {k : Filter} (h : filterKey f = some k) :
    encodePers c f = .ok (placeField c.mApers ((persCodeOf c k).setWidth 8)) := by
  rw [encodePers, h]

theorem encodePers_of_no_key {f : FilterOperand} (h : filterKey f = none) :
    encodePers c f = .error (rangeError .filtering (.filter f)) := by
  rw [encodePers, h]

/-- The code in an operand's byte is the one that stands where its key does. -/
theorem CfgFacts.encodePers_index (h : CfgFacts c) {f : FilterOperand} {k : Filter} {i : Nat}
    (hf : filterKey f = some k) (hi : persKeys[i]? = some k) :
    encodePers c f = .ok (placeField c.mApers ((c.persCode.getD i 0).setWidth 8)) := by
  rw [encodePers_of_key hf, List.getD_eq_getElem?_getD, h.persCodeOf_index hi]; rfl

/-- The key decoded from a byte stands in the table where the code in the byte's field does. -/
theorem CfgFacts.decodePers_index (h : CfgFacts c) (b : Byte) :
    ∃ i : Nat, persKeys[i]? = some (decodePers c b) ∧ c.persCode[i]? = some ((extractField c.mApers b).setWidth 4) :=
  h.persKeyOf_index _

theorem CfgFacts.decodePers_mem (h : CfgFacts c) (b : Byte) : decodePers c b ∈ persKeys := by
  obtain ⟨i, hi, -⟩ := h.decodePers_index b
  exact List.mem_of_getElem? hi

/-! ### Persistence: the laws (R99) -/

/-- An operand's byte decodes to the operand's key. -/
theorem CfgFacts.decodePers_encodePers (h : CfgFacts c) {f : FilterOperand} {k : Filter} (hf : filterKey f = some k)
    (hk : k ∈ persKeys) : ∃ b, encodePers c f = .ok b ∧ decodePers c b = k := by
  obtain ⟨i, hi⟩ := List.mem_iff_getElem?.mp hk
  refine ⟨_, encodePers_of_key hf, ?_⟩
  rw [decodePers, h.extract_place_pers, h.persKeyOf_persCodeOf hi]

/-- The key a byte decodes to encodes to the bits of the byte's field. -/
theorem CfgFacts.encodePers_decodePers (h : CfgFacts c) (b : Byte) :
    encodePers c (filterOperand (decodePers c b)) = .ok (b &&& c.mApers) := by
  rw [encodePers_of_key (filterKey_filterOperand (h.decodePers_mem b)), decodePers, h.persCodeOf_persKeyOf,
    h.place_extract_pers]

/-! ### Persistence: the two operations -/

theorem exec_encPers (f : FilterOperand) (s : State) :
    exec (.encPers f) s = .next (s.settle ((encodePers s.cfg f).map .byte)) := rfl

theorem exec_encPers_ok {f : FilterOperand} {s : State} {b : Byte} (h : encodePers s.cfg f = .ok b) :
    exec (.encPers f) s = .next (s.accept (.byte b)) := by
  rw [exec_encPers, h]; rfl

theorem exec_encPers_error {f : FilterOperand} {s : State} {e : OpError} (h : encodePers s.cfg f = .error e) :
    exec (.encPers f) s = .next (s.raise (.domain e)) := by
  rw [exec_encPers, h]; rfl

theorem exec_decPers (b : Byte) (s : State) :
    exec (.decPers b) s = .next (s.accept (.filter (decodePers s.cfg b))) := rfl

/-- Settles O18: `every` is the key at place 0 and the i-th count the one at place i + 1; what is no key is an error. -/
theorem encPersTable : Obligations.EncPersTable := by
  intro s hwf
  have h := (cfgWellFormed_iff s.cfg).mp hwf
  refine ⟨fun f hf => ?_, fun i n hn => ?_, fun f hf => ?_⟩
  · exact exec_encPers_ok (h.encodePers_index (filterKey_every hf) (i := 0) rfl)
  · exact exec_encPers_ok (h.encodePers_index (filterKey_count (List.mem_of_getElem? hn)) (persKeys_count hn))
  · exact exec_encPers_error (encodePers_of_no_key (filterKey_none hf))

/-- Settles O19: the sixteen codes are all there are, so the field of any byte holds the code of a key. -/
theorem decPersTotal : Obligations.DecPersTotal := by
  intro s b hwf
  obtain ⟨i, hkey, hcode⟩ := ((cfgWellFormed_iff s.cfg).mp hwf).decodePers_index b
  exact ⟨i, decodePers s.cfg b, exec_decPers b s, hkey, hcode⟩

/-- Settles O20: keys and codes undo each other in the table, codes and bytes in the field. -/
theorem persistenceLaws : Obligations.PersistenceLaws := by
  intro c hwf
  have h := (cfgWellFormed_iff c).mp hwf
  refine ⟨fun n hn => ?_, fun f hf => ?_, fun b => ?_⟩
  · exact h.decodePers_encodePers (filterKey_count hn) (mem_persKeys.mpr (.inr ⟨n, hn, rfl⟩))
  · exact h.decodePers_encodePers (filterKey_every hf) (mem_persKeys.mpr (.inl rfl))
  · exact h.encodePers_decodePers b

/-! ### Gain (R100 to R103) -/

/-- `GAIN_CODE` as multiplier and code pairs (R16). -/
def gainTable : List (Int × Byte) := [(1, 0), (4, 1), (16, 2), (60, 3)]

/-- The model's two gain functions read the table in its two directions, and its codes are the 2-bit ones. -/
theorem gainTable_codes : ∀ p ∈ gainTable, gainCode p.1 = some p.2 ∧ gainOf p.2 = p.1 ∧ p.2.toNat < 4 := by decide

/-- The pairs of the table are the multipliers and codes that the encoder's function relates. -/
theorem mem_gainTable {m : Int} {code : Byte} : (m, code) ∈ gainTable ↔ gainCode m = some code := by
  refine ⟨fun h => (gainTable_codes _ h).1, fun h => ?_⟩
  unfold gainCode at h
  split_ifs at h with h1 h4 h16 h60 <;> cases h <;> subst m <;> decide

theorem gainCode_eq_none_iff {m : Int} : gainCode m = none ↔ m ∉ ([1, 4, 16, 60] : List Int) := by
  unfold gainCode
  split_ifs with h1 h4 h16 h60 <;> simp [*]

/-- The multiplier of a 2-bit code has that code. -/
theorem gainCode_gainOf {code : Byte} (h : code.toNat < 4) : gainCode (gainOf code) = some code := by
  revert code
  decide +kernel

/-- The code of a multiplier is a 2-bit one, and has that multiplier. -/
theorem gainOf_gainCode {m : Int} {code : Byte} (h : gainCode m = some code) :
    gainOf code = m ∧ code.toNat < 4 :=
  (gainTable_codes _ (mem_gainTable.mpr h)).2

theorem encodeGain_of_code {m : Int} {code : Byte} (h : gainCode m = some code) :
    encodeGain c m = .ok (placeField c.mAgain code) := by
  rw [encodeGain, h]

theorem encodeGain_of_no_code {m : Int} (h : gainCode m = none) :
    encodeGain c m = .error (rangeError .gain (.int m)) := by
  rw [encodeGain, h]

/-- The multiplier decoded from a byte has the code in the byte's field. -/
theorem CfgFacts.gainCode_decodeGain (h : CfgFacts c) (b : Byte) :
    gainCode (decodeGain c b) = some (extractField c.mAgain b) :=
  gainCode_gainOf (h.place_extract_gain b).2

/-- A multiplier's byte decodes to the multiplier. -/
theorem CfgFacts.decodeGain_encodeGain (h : CfgFacts c) {m : Int} {code : Byte} (hm : gainCode m = some code) :
    ∃ b, encodeGain c m = .ok b ∧ decodeGain c b = m := by
  obtain ⟨hcode, hlt⟩ := gainOf_gainCode hm
  exact ⟨_, encodeGain_of_code hm, by rw [decodeGain, h.extract_place_gain code hlt, hcode]⟩

/-- The multiplier a byte decodes to encodes to the bits of the byte's field. -/
theorem CfgFacts.encodeGain_decodeGain (h : CfgFacts c) (b : Byte) :
    encodeGain c (decodeGain c b) = .ok (b &&& c.mAgain) := by
  rw [encodeGain_of_code (h.gainCode_decodeGain b), (h.place_extract_gain b).1]

theorem exec_encGain (m : Int) (s : State) :
    exec (.encGain m) s = .next (s.settle ((encodeGain s.cfg m).map .byte)) := rfl

theorem exec_decGain (b : Byte) (s : State) :
    exec (.decGain b) s = .next (s.accept (.multiplier (decodeGain s.cfg b))) := rfl

/-- Settles O21: a multiplier and its code determine each other, and so do a code and the bits of its field. -/
theorem gainOperations : Obligations.GainOperations := by
  refine ⟨fun s m code hm => ?_, fun s m hm => ?_, fun s b hwf => ?_, fun c hwf => ⟨fun m hm => ?_, ?_⟩⟩
  · rw [exec_encGain, encodeGain_of_code (mem_gainTable.mp hm)]; rfl
  · rw [exec_encGain, encodeGain_of_no_code (gainCode_eq_none_iff.mpr hm)]; rfl
  · have h := (cfgWellFormed_iff s.cfg).mp hwf
    exact ⟨_, exec_decGain b s, mem_gainTable.mpr (h.gainCode_decodeGain b)⟩
  · have hsome : gainCode m ≠ none := fun hn => gainCode_eq_none_iff.mp hn hm
    obtain ⟨code, hcode⟩ := Option.ne_none_iff_exists'.mp hsome
    exact ((cfgWellFormed_iff c).mp hwf).decodeGain_encodeGain hcode
  · exact ((cfgWellFormed_iff c).mp hwf).encodeGain_decodeGain

end Sys2Proof.Machine
end

section
/-! PROOFS. STATUS and the raw sample (R104 to R107). Eight bytes and a sample determine each other word by word, so the
bytes of a sample are the only eight that decode to it. -/

namespace Sys2Proof.Machine

/-! ### STATUS (R104) -/

/-- No bit outside the two masks takes part in the flags. -/
theorem statusFlags_masked (c : Cfg) (b : Byte) : statusFlags c (b &&& (c.mAvalid ||| c.mAint)) = statusFlags c b := by
  rw [← blend_zero, statusFlags_blend]

theorem exec_decStatus (b : Byte) (s : State) :
    exec (.decStatus b) s = .next (s.accept (.statusFlags (statusFlags s.cfg b))) := rfl

/-- Settles O22: the flags are the two mask tests, and the bits outside the two masks take no part. -/
theorem decStatusTests : Obligations.DecStatusTests := fun s b =>
  ⟨exec_decStatus b s, (statusFlags_masked s.cfg b).symm⟩

/-! ### The sample decoder (R106) -/

theorem decodeSample_cons (b0 b1 b2 b3 b4 b5 b6 b7 : Byte) (rest : List Byte) :
    decodeSample (b0 :: b1 :: b2 :: b3 :: b4 :: b5 :: b6 :: b7 :: rest)
      = .ok { clear := le16 b0 b1, red := le16 b2 b3, green := le16 b4 b5, blue := le16 b6 b7 } := by
  have h : ¬ (b0 :: b1 :: b2 :: b3 :: b4 :: b5 :: b6 :: b7 :: rest).length < 8 := by simp
  rw [decodeSample, if_neg h]; rfl

theorem decodeSample_short {bs : List Byte} (h : bs.length < 8) :
    decodeSample bs = .error (lengthError .sample bs.length) := if_pos h

theorem exec_decSample (bs : List Byte) (s : State) :
    exec (.decSample bs) s = .next (s.settle ((decodeSample bs).map .sample)) := rfl

/-- Settles O23: the first eight bytes are four little-endian words, and fewer are a length error. -/
theorem decSampleFields : Obligations.DecSampleFields := by
  refine ⟨fun s b0 b1 b2 b3 b4 b5 b6 b7 rest => ?_, fun s bs h => ?_⟩
  · refine ⟨{ clear := le16 b0 b1, red := le16 b2 b3, green := le16 b4 b5, blue := le16 b6 b7 }, ?_,
      le16_toNat b0 b1, le16_toNat b2 b3, le16_toNat b4 b5, le16_toNat b6 b7⟩
    rw [exec_decSample, decodeSample_cons]; rfl
  · rw [exec_decSample, decodeSample_short h]; rfl

/-! ### A sample and its eight bytes (R69, R107) -/

/-- A sample comes back from its eight bytes. -/
theorem decodeSample_sampleBytes (x : Sample) : decodeSample (sampleBytes x) = .ok x := by
  refine (decodeSample_cons (lo8 x.clear) (hi8 x.clear) (lo8 x.red) (hi8 x.red) (lo8 x.green) (hi8 x.green)
    (lo8 x.blue) (hi8 x.blue) []).trans ?_
  simp only [le16_lo8_hi8]

/-- Every eight bytes are those of a sample. -/
theorem exists_sampleBytes {bs : List Byte} (h : bs.length = 8) : ∃ x : Sample, bs = sampleBytes x := by
  match bs, h with
  | [b0, b1, b2, b3, b4, b5, b6, b7], _ =>
    refine ⟨{ clear := le16 b0 b1, red := le16 b2 b3, green := le16 b4 b5, blue := le16 b6 b7 }, ?_⟩
    simp only [sampleBytes, wordBytes_le16]; rfl

/-- Settles O24: a sample comes back from its own bytes, and any other eight bytes are those of another sample. -/
theorem sampleBijection : Obligations.SampleBijection := by
  refine fun x => ⟨sampleBytes x, rfl, decodeSample_sampleBytes x, fun bs hlen hx => ?_⟩
  obtain ⟨y, rfl⟩ := exists_sampleBytes hlen
  rw [decodeSample_sampleBytes] at hx
  rw [Except.ok.inj hx]

end Sys2Proof.Machine
end

section
/-! PROOFS. The poll's data read (R145, R157, R159): acknowledged, it hands the sample the data registers hold to the
emission of the data event, which cannot fail and goes on to a service in one case alone. -/

namespace Sys2Proof.Machine

variable {s : State} {hc : HostConfig} {r : PollResult}

/-- The decision of a service names what is to be done next, and of chip, session and events it can only add to the last. -/
theorem decideService_ok (who : Activity) (st : Strategy) (b : Band) (clear : Word) (s : State) :
    ∃ p u, decideService who st b clear s = .ok (some p) u ∧ u.chip = s.chip ∧ u.session = s.session
      ∧ s.events <:+ u.events := by
  unfold decideService
  split
  · split
    · exact ⟨_, _, rfl, rfl, rfl, List.suffix_refl _⟩
    · exact ⟨_, _, rfl, rfl, rfl, List.suffix_cons _ _⟩
  · exact ⟨_, _, rfl, rfl, rfl, List.suffix_refl _⟩

theorem softwareWindow_freshRead (h : hc.windowSource = .freshRead) (r : PollResult) (s : State) :
    softwareWindow hc r s = none := by
  simp only [softwareWindow, h]

/-- All that follows the data read: the LED is off and the event emitted, and a service begins exactly for a violation
under software interrupts, with a read of the window when the session is configured so. -/
theorem afterData_ok (hc : HostConfig) (r : PollResult) (d : Sample × Measurement) (s : State) :
    ∃ q u, afterData hc r d s = .ok q u ∧ u.chip = s.chip
      ∧ (HostEvent.data d.2 r :: s.events) <:+ u.events
      ∧ u.session.led = s.session.led.map (fun _ => false)
      ∧ (r.violation = true ∧ hc.softwareInterrupt = true → q.isSome = true)
      ∧ (r.violation = true ∧ hc.softwareInterrupt = true ∧ hc.windowSource = .freshRead →
          q = some (.service (.readThreshold d.1.clear)))
      ∧ (r.violation = false ∨ hc.softwareInterrupt = false → q = none) := by
  simp only [afterData]
  cases hserve : r.violation && hc.softwareInterrupt with
  | false =>
    have hno : ¬ (r.violation = true ∧ hc.softwareInterrupt = true) := by simpa using hserve
    exact ⟨_, _, rfl, rfl, List.suffix_refl _, rfl, fun h => absurd h hno, fun h => absurd ⟨h.1, h.2.1⟩ hno,
      fun _ => rfl⟩
  | true =>
    obtain ⟨hv, hsi⟩ := Bool.and_eq_true_iff.mp hserve
    have hyes : ¬ (r.violation = false ∨ hc.softwareInterrupt = false) := by simp [hv, hsi]
    cases hw : softwareWindow hc r ((s.setLed false).emit (.data d.2 r)) with
    | none => exact ⟨_, _, rfl, rfl, List.suffix_refl _, rfl, fun _ => rfl, fun _ => rfl, fun h => absurd h hyes⟩
    | some b =>
      have hsource : hc.windowSource ≠ .freshRead := fun h => by simp [softwareWindow_freshRead h] at hw
      obtain ⟨p, u, hdecide, hchip, hsession, hevents⟩ :=
        decideService_ok .poll hc.strategy b d.1.clear ((s.setLed false).emit (.data d.2 r))
      exact ⟨some (.service p), u, by simp only [if_true, hdecide]; rfl, hchip, hevents, by rw [hsession]; rfl,
        fun _ => rfl, fun h => absurd h.2.2 hsource, fun h => absurd h hyes⟩

/-- The poll's turn at its data read, acknowledged. -/
theorem pollTurn_readData (h : CfgFacts s.cfg) (hp : s.session.poll = some (.readData r))
    (hcfg : s.session.config = some hc) (hbus : s.session.bus = true) (ha : s.answer = .ok) :
    pollTurn s = endTurn .poll (afterData hc r (s.dataNow, derive s.dataNow) s.answered) State.setPoll := by
  simp only [pollTurn, hp, hcfg, withBus, hbus, if_true, pollSlice, rdData_ok h ha, Slice.bind]

/-- Settles O60: the turn reads the sample the data registers hold, and the rest is what follows a data read. -/
theorem pollEmitsAndServes : Obligations.PollEmitsAndServes := by
  intro s hc r rest hwf hsch hp hcfg hbus ha
  obtain ⟨q, u, hafter, hchip, hevents, hled, hserve, hfresh, hend⟩ :=
    afterData_ok hc r (s.dataNow, derive s.dataNow) ({ s with schedule := rest } : State).answered
  have hturn : runTurn .poll { s with schedule := rest } = .next (u.setPoll q) :=
    (pollTurn_readData (s := { s with schedule := rest }) ((cfgWellFormed_iff s.cfg).mp hwf) hp hcfg hbus ha).trans
      (congrArg (endTurn .poll · State.setPoll) hafter)
  exact ⟨u.setPoll q, s.dataNow, step_of_turn_same_chip hsch hturn hchip, hchip, rfl, rfl, rfl, rfl, hevents, hled,
    hserve, hfresh, hend⟩

end Sys2Proof.Machine
end

section
/-! PROOFS. The derived measurement (R108 to R116). The truncated product of R111 is a quotient of naturals, so the
display range of R116 (c) is a fact about natural division; every other member is read off the branch on clear. -/

namespace Sys2Proof.Machine

variable {x : Sample}

/-! ### One channel of the display RGB (R111) -/

/-- R111: in exact arithmetic truncating the scaled ratio is the integer quotient. -/
theorem rgbChannel_eq_div (ch clear : Word) :
    rgbChannel ch clear = ((ch.toNat * 255 / clear.toNat : Nat) : Int) := by
  have hnonneg : 0 ≤ channel ch / channel clear * 255 := by unfold channel; positivity
  have hquotient : channel ch / channel clear * 255 = ((ch.toNat * 255 : Nat) : Q) / (clear.toNat : Q) := by
    unfold channel; push_cast; ring
  rw [rgbChannel, truncQ_of_nonneg hnonneg, hquotient, Rat.floor_natCast_div_natCast, Int.natCast_ediv]

/-- R116 (c): a channel not above a non-zero clear stays in the display range, whose top only clear itself reaches. -/
theorem rgbChannel_range {ch clear : Word} (hpos : 0 < clear.toNat) (hle : ch.toNat ≤ clear.toNat) :
    0 ≤ rgbChannel ch clear ∧ rgbChannel ch clear ≤ 255 ∧ (rgbChannel ch clear = 255 ↔ ch = clear) := by
  have hupper : ch.toNat * 255 / clear.toNat ≤ 255 := Nat.div_le_of_le_mul (by omega)
  have htop : 255 ≤ ch.toNat * 255 / clear.toNat ↔ clear.toNat ≤ ch.toNat := by
    rw [Nat.le_div_iff_mul_le hpos]; omega
  rw [rgbChannel_eq_div, ← BitVec.toNat_inj]
  generalize ch.toNat * 255 / clear.toNat = quotient at hupper htop ⊢
  omega

/-! ### The branch on clear (R111 to R114) -/

theorem rgbOf_dark (h : x.clear.toNat = 0) : rgbOf x = { r := 0, g := 0, b := 0, zero := true } := if_pos h

theorem rgbOf_lit (h : 0 < x.clear.toNat) :
    rgbOf x = { r := rgbChannel x.red x.clear, g := rgbChannel x.green x.clear, b := rgbChannel x.blue x.clear,
                zero := false } := if_neg h.ne'

theorem luxOf_dark (h : x.clear.toNat = 0) : luxOf x = .nan := if_pos h

theorem luxOf_lit (h : 0 < x.clear.toNat) : luxOf x = Config.lux x.clear x.red x.green x.blue := if_neg h.ne'

theorem cctOf_dark (h : x.clear.toNat = 0) : cctOf x = .nan := if_pos h

theorem cctOf_lit (h : 0 < x.clear.toNat) : cctOf x = Config.cct x.clear x.red x.green x.blue := if_neg h.ne'

/-- R116 (b). -/
theorem rgbOf_zero_iff (x : Sample) : (rgbOf x).zero = true ↔ x.clear.toNat = 0 := by
  rcases Nat.eq_zero_or_pos x.clear.toNat with hdark | hlit
  · simp [rgbOf_dark hdark, hdark]
  · simp [rgbOf_lit hlit, hlit.ne']

/-! ### DERIVE (R115, R116) -/

theorem exec_deriveMeasurement (clear red green blue : Word) (s : State) :
    exec (.deriveMeasurement clear red green blue) s
      = .next (s.accept (.measurement (derive { clear := clear, red := red, green := green, blue := blue }))) := rfl

/-- Settles O25: the operation accepts the measurement of its operands, whose members are read off by the branch on
clear. -/
theorem deriveResult : Obligations.DeriveResult := by
  intro s clear red green blue
  refine ⟨_, exec_deriveMeasurement clear red green blue s, rfl, rfl, fun hdark => ?_, fun hlit => ?_⟩
  · exact ⟨rgbOf_dark hdark, luxOf_dark hdark, cctOf_dark hdark⟩
  · refine ⟨?_, luxOf_lit hlit, cctOf_lit hlit⟩
    simp only [← rgbChannel_eq_div]
    exact rgbOf_lit hlit

/-- Settles O26: for a non-zero clear each member is its channel's quotient, and that keeps to the display range. -/
theorem derivedRgbRange : Obligations.DerivedRgbRange := by
  refine fun x => ⟨rgbOf_zero_iff x, fun hpos hle => ?_, fun hpos hle => ?_, fun hpos hle => ?_⟩
  all_goals
    simp only [derive, rgbOf_lit hpos]
    exact rgbChannel_range hpos hle

end Sys2Proof.Machine
end

section
/-! PROOFS. The command byte (R60, R118 to R121). MKCMD succeeds on the 5-bit addresses and the described types alone, and
a command byte is the sum of the three fields read from it, so its operands and their byte determine each other. -/

namespace Sys2Proof.Machine

variable {c : Cfg} {a : Int} {t : BitVec 2}

/-! ### The fields of a byte (R60, R61) -/

/-- R61: the indicator is bit 7. -/
theorem cmdIndicator_eq_getLsbD (cmd : Byte) : cmdIndicator cmd = cmd.getLsbD 7 := by
  have hbit : cmd &&& commandBit = if cmd.getLsbD 7 then BitVec.twoPow 8 7 else 0 := BitVec.and_twoPow cmd 7
  rw [cmdIndicator, testMask, hbit]
  cases cmd.getLsbD 7 <;> rfl

/-- R60: the three fields are disjoint and make up the whole byte. -/
theorem toNat_eq_cmdFields (cmd : Byte) :
    cmd.toNat = (cmdAddress cmd).toNat + 32 * (cmdType cmd).toNat + (if cmdIndicator cmd then 128 else 0) := by
  have hlow : (cmdAddress cmd).toNat = cmd.toNat % 32 := by
    rw [cmdAddress, BitVec.extractLsb'_toNat, Nat.shiftRight_zero]
  have hmid : (cmdType cmd).toNat = cmd.toNat / 32 % 4 := by
    rw [cmdType, BitVec.extractLsb'_toNat, Nat.shiftRight_eq_div_pow]
  have htop : cmdIndicator cmd = decide (128 ≤ cmd.toNat) :=
    (cmdIndicator_eq_getLsbD cmd).trans (BitVec.msb_eq_decide cmd)
  have hlt := cmd.isLt
  simp only [hlow, hmid, htop, decide_eq_true_eq]
  split <;> omega

theorem commandByte_toNat (a : BitVec 5) (t : BitVec 2) (i : Bool) :
    (commandByte a t i).toNat = a.toNat + 32 * t.toNat + (if i then 128 else 0) := by
  rw [toNat_eq_cmdFields, cmdAddress_commandByte, cmdType_commandByte, cmdIndicator_commandByte]

/-! ### The checks of MKCMD, in order (R118 to R120) -/

theorem describedType_iff : describedType c t = true ↔ t = c.tRepeat ∨ t = c.tAutoinc ∨ t = c.tSpecial := by
  simp only [describedType, Bool.or_eq_true, beq_iff_eq, or_assoc]

/-- The addresses in range are the values of the 5-bit field. -/
theorem exists_address (h0 : 0 ≤ a) (h1 : a ≤ 0x1F) : ∃ adr : BitVec 5, (adr.toNat : Int) = a :=
  ⟨BitVec.ofNat 5 a.toNat, by rw [BitVec.toNat_ofNat]; omega⟩

theorem makeCommand_absent (c : Cfg) (t : BitVec 2) (i : Option Bool) :
    makeCommand c none t i = .error { cls := .missingOperand, field := .addressOrFunction, value := .absent } := rfl

theorem makeCommand_address_error (h : a < 0 ∨ 0x1F < a) (i : Option Bool) :
    makeCommand c (some a) t i = .error (rangeError .addressOrFunction (.int a)) := if_pos h

theorem makeCommand_type_error (h0 : 0 ≤ a) (h1 : a ≤ 0x1F) (ht : describedType c t = false) (i : Option Bool) :
    makeCommand c (some a) t i = .error (rangeError .type (.int t.toNat)) := by
  have hrange : ¬ (a < 0 ∨ 0x1F < a) := by omega
  rw [makeCommand, if_neg hrange, ht]; rfl

/-- MKCMD succeeds on the 5-bit addresses with a described type alone, and gives the byte of the three fields. -/
theorem makeCommand_ok_iff {i : Option Bool} {cmd : Byte} :
    makeCommand c (some a) t i = .ok cmd ↔
      ∃ adr : BitVec 5, (adr.toNat : Int) = a ∧ describedType c t = true ∧ cmd = commandByte adr t (i.getD true) := by
  constructor
  · intro h
    by_cases hrange : a < 0 ∨ 0x1F < a
    · rw [makeCommand_address_error hrange] at h; exact nomatch h
    have h0 : 0 ≤ a := by omega
    have h1 : a ≤ 0x1F := by omega
    cases ht : describedType c t with
    | false => rw [makeCommand_type_error h0 h1 ht] at h; exact nomatch h
    | true =>
      obtain ⟨adr, rfl⟩ := exists_address h0 h1
      exact ⟨adr, rfl, rfl, (Except.ok.inj ((makeCommand_ok adr ht i).symm.trans h)).symm⟩
  · rintro ⟨adr, rfl, ht, rfl⟩
    exact makeCommand_ok adr ht i

/-! ### MKCMD (R118 to R121) -/

theorem exec_mkcmd (a : Option Int) (t : BitVec 2) (i : Option Bool) (s : State) :
    exec (.mkcmd a t i) s = .next (s.settle ((makeCommand s.cfg a t i).map .command)) := rfl

theorem exec_mkcmd_error {a : Option Int} {i : Option Bool} {s : State} {e : OpError}
    (h : makeCommand s.cfg a t i = .error e) : exec (.mkcmd a t i) s = .next (s.raise (.domain e)) := by
  rw [exec_mkcmd, h]; rfl

theorem exec_mkcmd_ok {a : Option Int} {i : Option Bool} {s : State} {cmd : Byte}
    (h : makeCommand s.cfg a t i = .ok cmd) : exec (.mkcmd a t i) s = .next (s.accept (.command cmd)) := by
  rw [exec_mkcmd, h]; rfl

/-- R118: an omitted `isCommand` counts as true, so `some false` alone leaves the indicator clear. -/
theorem indicator_weight (i : Option Bool) :
    (if i.getD true then 128 else 0) = if i = some false then 0 else 128 := by
  rcases i with _ | _ | _ <;> rfl

/-- Settles O27: the first check that fails is reported, and operands that pass all three have the byte of their
fields, which is the fields' sum. -/
theorem mkcmdResult : Obligations.MkcmdResult := by
  refine fun s t i => ⟨exec_mkcmd_error (makeCommand_absent s.cfg t i), fun a h => ?_, fun a h0 h1 hr ha hs => ?_,
    fun a h0 h1 h => ?_⟩
  · exact exec_mkcmd_error (makeCommand_address_error h i)
  · have ht : describedType s.cfg t = false := by
      rw [← Bool.not_eq_true, describedType_iff]
      exact fun h => h.elim hr (Or.elim · ha hs)
    exact exec_mkcmd_error (makeCommand_type_error h0 h1 ht i)
  · obtain ⟨adr, rfl⟩ := exists_address h0 h1
    refine ⟨_, exec_mkcmd_ok (makeCommand_ok adr (describedType_iff.mpr h) i), ?_⟩
    rw [commandByte_toNat, indicator_weight]
    push_cast; rfl

/-- The operands of a successful MKCMD are the fields of its byte. -/
theorem cmdFields_of_makeCommand {i : Bool} {cmd : Byte} (h : makeCommand c (some a) t (some i) = .ok cmd) :
    ((cmdAddress cmd).toNat : Int) = a ∧ cmdType cmd = t ∧ cmdIndicator cmd = i := by
  obtain ⟨adr, rfl, -, rfl⟩ := makeCommand_ok_iff.mp h
  rw [cmdAddress_commandByte, cmdType_commandByte, cmdIndicator_commandByte]
  exact ⟨rfl, rfl, rfl⟩

/-- Settles O28: the operands are read off the byte, so two successful calls with one byte have the same operands. -/
theorem mkcmdFieldsReadBack : Obligations.MkcmdFieldsReadBack := by
  intro c a t i cmd h
  obtain ⟨haddress, htype, hindicator⟩ := cmdFields_of_makeCommand h
  refine ⟨haddress, htype, (cmdIndicator_eq_getLsbD cmd).symm.trans hindicator, fun a' t' i' h' => ?_⟩
  obtain ⟨haddress', htype', hindicator'⟩ := cmdFields_of_makeCommand h'
  exact ⟨haddress'.symm.trans haddress, htype'.symm.trans htype, hindicator'.symm.trans hindicator⟩

end Sys2Proof.Machine
end

section
/-! PROOFS. The threshold controller (R122 to R132). A sample inside the window leaves it alone, one outside gives the
window of the strategy, and the half range is at most half the width; the laws are arithmetic on these three facts. -/

namespace Sys2Proof.Machine

variable {b : Band} {clear : Word} {st : Strategy}

/-! ### The half range and the direction (R123, R125) -/

/-- R125: truncated toward zero, the half range of a conventional window is half its width, rounded down. -/
theorem halfRange_of_conventional (h : b.low.toNat ≤ b.high.toNat) :
    0 ≤ halfRange b ∧ 2 * halfRange b ≤ (b.high.toNat : Int) - b.low.toNat
      ∧ (b.high.toNat : Int) - b.low.toNat ≤ 2 * halfRange b + 1 := by
  have hdiv : halfRange b = ((b.high.toNat : Int) - b.low.toNat) / 2 := Int.tdiv_eq_ediv_of_nonneg (by omega)
  omega

/-- Of any window, inverted ones included, the half range is that of a difference of words. -/
theorem halfRange_bounds (b : Band) : -32767 ≤ halfRange b ∧ halfRange b ≤ 32767 := by
  have hl := b.low.isLt
  have hh := b.high.isLt
  have hneg : -halfRange b = ((b.low.toNat : Int) - b.high.toNat).tdiv 2 := by
    rw [halfRange, ← Int.neg_tdiv, neg_sub]
  rcases le_total b.low.toNat b.high.toNat with h | h
  · have := halfRange_of_conventional h
    omega
  · rw [Int.tdiv_eq_ediv_of_nonneg (by omega)] at hneg
    omega

theorem direction_inside_iff :
    direction b clear = .inside ↔ b.low.toNat ≤ clear.toNat ∧ clear.toNat ≤ b.high.toNat := by
  unfold direction
  split
  next h => exact iff_of_false nofun (by omega)
  next h =>
    split
    next hl => exact iff_of_false nofun (by omega)
    next hl => exact iff_of_true rfl (by omega)

/-- R123: outside the window the upper test is made first and wins. -/
theorem direction_cases (h : direction b clear ≠ .inside) :
    direction b clear = .above ∧ b.high.toNat < clear.toNat
      ∨ direction b clear = .below ∧ ¬ b.high.toNat < clear.toNat ∧ clear.toNat < b.low.toNat := by
  unfold direction at h ⊢
  split
  next hh => exact .inl ⟨rfl, hh⟩
  next hh =>
    split
    next hl => exact .inr ⟨rfl, hh, hl⟩
    next hl => simp [hh, hl] at h

theorem direction_outside (h : b.high.toNat < clear.toNat ∨ clear.toNat < b.low.toNat) :
    direction b clear = if b.high.toNat < clear.toNat then .above else .below := by
  have hout : direction b clear ≠ .inside := fun hi => by
    have := direction_inside_iff.mp hi
    omega
  rcases direction_cases hout with ⟨hd, hh⟩ | ⟨hd, hh, -⟩ <;> simp [hd, hh]

/-! ### The two branches of the controller (R124, R127, R128) -/

/-- The window each strategy gives for a sample outside. -/
def movedWindow (st : Strategy) (b : Band) (clear : Word) : Window :=
  match st with
  | .jump => jumpWindow b clear
  | .walk => walkWindow b (direction b clear)

theorem tstep_inside (st : Strategy) (h : direction b clear = .inside) :
    tstep st b clear = controllerResult .inside (unmoved b) clear := by
  cases st <;> simp [tstep, tstepJump, tstepWalk, h]

theorem tstep_outside (st : Strategy) (h : direction b clear ≠ .inside) :
    tstep st b clear = controllerResult (direction b clear) (movedWindow st b clear) clear := by
  cases st <;> simp [tstep, tstepJump, tstepWalk, movedWindow, h]

theorem tstep_direction (st : Strategy) (b : Band) (clear : Word) :
    (tstep st b clear).direction = direction b clear := by
  cases st <;> rfl

/-- The bounds of the result for an inside sample. -/
theorem tstep_bounds_inside (st : Strategy) (h : direction b clear = .inside) :
    (tstep st b clear).newLow = b.low.toNat ∧ (tstep st b clear).newHigh = b.high.toNat := by
  rw [tstep_inside st h]; exact ⟨rfl, rfl⟩

/-- The bounds of JUMP's result for an outside sample (R126, R127). -/
theorem jump_bounds_outside (h : direction b clear ≠ .inside) :
    (tstep .jump b clear).newLow = max ((clear.toNat : Int) - halfRange b) 0
      ∧ (tstep .jump b clear).newHigh = min ((clear.toNat : Int) + halfRange b) 0xFFFF := by
  rw [tstep_outside .jump h]; exact ⟨rfl, rfl⟩

/-- The bounds of WALK's result for an outside sample (R126, R128). -/
theorem walk_bounds_outside (h : direction b clear ≠ .inside) :
    (tstep .walk b clear).newLow = max ((b.low.toNat : Int) + (direction b clear).sign * halfRange b) 0
      ∧ (tstep .walk b clear).newHigh = min ((b.high.toNat : Int) + (direction b clear).sign * halfRange b) 0xFFFF := by
  rw [tstep_outside .walk h]; exact ⟨rfl, rfl⟩

theorem exec_tstepJump (low high clear : Word) (s : State) :
    exec (.tstepJump low high clear) s = .next (s.accept (.controllerStep (tstep .jump ⟨low, high⟩ clear))) := rfl

theorem exec_tstepWalk (low high clear : Word) (s : State) :
    exec (.tstepWalk low high clear) s = .next (s.accept (.controllerStep (tstep .walk ⟨low, high⟩ clear))) := rfl

/-- Settles O29: the two branches of the controller, with the direction read off the two comparisons. -/
theorem jumpRecentres : Obligations.JumpRecentres := by
  refine fun s low high clear => ⟨fun h => ?_, fun h => ?_⟩
  · rw [exec_tstepJump, tstep_inside .jump (direction_inside_iff.mpr h)]; rfl
  · have hd := direction_outside (b := ⟨low, high⟩) h
    have hout : direction ⟨low, high⟩ clear ≠ .inside := by rw [hd]; split <;> nofun
    rw [exec_tstepJump, tstep_outside .jump hout, hd]; rfl

/-- Settles O30: outside, both bounds move by half the range to the side the direction's sign names. -/
theorem walkShifts : Obligations.WalkShifts := by
  refine fun s low high clear => ⟨fun h => ?_, fun h => ?_⟩
  · rw [exec_tstepWalk, tstep_inside .walk (direction_inside_iff.mpr h)]; rfl
  · have hd := direction_outside (b := ⟨low, high⟩) h
    have hout : direction ⟨low, high⟩ clear ≠ .inside := by rw [hd]; split <;> nofun
    rw [exec_tstepWalk, tstep_outside .walk hout, movedWindow, hd]
    split <;> simp only [walkWindow, Direction.sign, one_mul, neg_mul] <;> rfl

/-! ### Conventional windows (R130) -/

/-- R130 (a) to (c): a conventional window stays conventional and 16-bit, and does not widen. -/
theorem tstep_conventional (st : Strategy) (clear : Word) (h : b.low.toNat ≤ b.high.toNat) :
    0 ≤ (tstep st b clear).newLow ∧ (tstep st b clear).newLow ≤ (tstep st b clear).newHigh
      ∧ (tstep st b clear).newHigh ≤ 0xFFFF
      ∧ (tstep st b clear).newHigh - (tstep st b clear).newLow ≤ (b.high.toNat : Int) - b.low.toNat := by
  have hhigh := b.high.isLt
  have hclear := clear.isLt
  obtain ⟨h0, h1, -⟩ := halfRange_of_conventional h
  by_cases hin : direction b clear = .inside
  · obtain ⟨hl, hh⟩ := tstep_bounds_inside st hin
    omega
  cases st with
  | jump =>
    obtain ⟨hl, hh⟩ := jump_bounds_outside hin
    omega
  | walk =>
    obtain ⟨hl, hh⟩ := walk_bounds_outside hin
    rcases direction_cases hin with ⟨hd, hc⟩ | ⟨hd, -, hc⟩ <;> simp only [hd, Direction.sign] at hl hh <;> omega

/-- R130 (d): JUMP's window contains the sample. -/
theorem jump_contains (clear : Word) (h : b.low.toNat ≤ b.high.toNat) :
    (tstep .jump b clear).newLow ≤ clear.toNat ∧ (clear.toNat : Int) ≤ (tstep .jump b clear).newHigh := by
  have hclear := clear.isLt
  obtain ⟨h0, -⟩ := halfRange_of_conventional h
  by_cases hin : direction b clear = .inside
  · obtain ⟨hl, hh⟩ := tstep_bounds_inside .jump hin
    have := direction_inside_iff.mp hin
    omega
  · obtain ⟨hl, hh⟩ := jump_bounds_outside hin
    omega

/-- A word's value survives the way through its 16-bit register. -/
theorem toNat_ofInt_word {v : Int} (h0 : 0 ≤ v) (h1 : v ≤ 0xFFFF) : ((BitVec.ofInt 16 v).toNat : Int) = v := by
  rw [BitVec.toNat_ofInt]
  omega

/-- So the sample that moved the window is inside JUMP's new one. -/
theorem jump_settles (clear : Word) (h : b.low.toNat ≤ b.high.toNat) :
    direction { low := BitVec.ofInt 16 (tstep .jump b clear).newLow,
                high := BitVec.ofInt 16 (tstep .jump b clear).newHigh } clear = .inside := by
  obtain ⟨h0, h1, h2, -⟩ := tstep_conventional .jump clear h
  obtain ⟨hl, hh⟩ := jump_contains clear h
  rw [direction_inside_iff, ← Int.ofNat_le, ← Int.ofNat_le, toNat_ofInt_word h0 (h1.trans h2),
    toNat_ofInt_word (h0.trans h1) h2]
  exact ⟨hl, hh⟩

/-- R130 (e): without a clamp WALK keeps the width. -/
theorem walk_keeps_width (clear : Word) (hl0 : 0 ≤ (b.low.toNat : Int) - halfRange b)
    (hh0 : (b.high.toNat : Int) + halfRange b ≤ 0xFFFF) (h : b.low.toNat ≤ b.high.toNat) :
    (tstep .walk b clear).newHigh - (tstep .walk b clear).newLow = (b.high.toNat : Int) - b.low.toNat := by
  obtain ⟨h0, -⟩ := halfRange_of_conventional h
  by_cases hin : direction b clear = .inside
  · obtain ⟨hl, hh⟩ := tstep_bounds_inside .walk hin
    omega
  · obtain ⟨hl, hh⟩ := walk_bounds_outside hin
    rcases direction_cases hin with ⟨hd, hc⟩ | ⟨hd, -, hc⟩ <;> simp only [hd, Direction.sign] at hl hh <;> omega

/-- R130 (f): a window of width at most 1 has no half range, so WALK leaves it where it is. -/
theorem walk_narrow (clear : Word) (h : b.low.toNat ≤ b.high.toNat) (hw : b.high.toNat ≤ b.low.toNat + 1) :
    (tstep .walk b clear).newLow = b.low.toNat ∧ (tstep .walk b clear).newHigh = b.high.toNat := by
  have hhigh := b.high.isLt
  have hzero : halfRange b = 0 := by
    obtain ⟨h0, h1, -⟩ := halfRange_of_conventional h
    omega
  by_cases hin : direction b clear = .inside
  · exact tstep_bounds_inside .walk hin
  · obtain ⟨hl, hh⟩ := walk_bounds_outside hin
    rw [hzero, mul_zero] at hl hh
    omega

/-- Settles O31: each law of R130 for the branch taken. -/
theorem conventionalWindowLaws : Obligations.ConventionalWindowLaws := by
  intro b clear h
  refine ⟨fun st => ?_, jump_contains clear h, jump_settles clear h, fun hout hl0 hh0 => ?_,
    fun hl0 hh0 => walk_keeps_width clear hl0 hh0 h, fun hw => ⟨walk_narrow clear h hw, fun hout => ?_⟩⟩
  · obtain ⟨h0, h1, h2, h3⟩ := tstep_conventional st clear h
    exact ⟨h0, h1, h2, h3, by rw [tstep_direction, direction_inside_iff]⟩
  · obtain ⟨hl, hh⟩ : (tstepJump b clear).newLow = _ ∧ (tstepJump b clear).newHigh = _ := jump_bounds_outside hout
    omega
  · have hclear := clear.isLt
    obtain ⟨h0, h1, -⟩ := halfRange_of_conventional h
    obtain ⟨hl, hh⟩ : (tstepJump b clear).newLow = _ ∧ (tstepJump b clear).newHigh = _ := jump_bounds_outside hout
    omega

/-! ### Every window (R129, R131) -/

/-- R131: the ranges of the two bounds, inverted windows included. -/
theorem tstep_ranges (st : Strategy) (b : Band) (clear : Word) :
    0 ≤ (tstep st b clear).newLow ∧ (tstep st b clear).newLow ≤ 98302
      ∧ -32767 ≤ (tstep st b clear).newHigh ∧ (tstep st b clear).newHigh ≤ 65535 := by
  have hlow := b.low.isLt
  have hhigh := b.high.isLt
  have hclear := clear.isLt
  obtain ⟨h0, h1⟩ := halfRange_bounds b
  by_cases hin : direction b clear = .inside
  · obtain ⟨hl, hh⟩ := tstep_bounds_inside st hin
    omega
  cases st with
  | jump =>
    obtain ⟨hl, hh⟩ := jump_bounds_outside hin
    omega
  | walk =>
    obtain ⟨hl, hh⟩ := walk_bounds_outside hin
    rcases direction_cases hin with ⟨hd, -⟩ | ⟨hd, -⟩ <;> simp only [hd, Direction.sign] at hl hh <;> omega

/-- A signed 18-bit port carries the numbers of its range unchanged. -/
theorem boundPort_toInt {v : Int} (h0 : -131072 ≤ v) (h1 : v < 131072) : (boundPort v).toInt = v :=
  BitVec.toInt_ofInt_eq_self (by decide) h0 h1

/-- Settles O32: the ranges of R131 lie in the port's. -/
theorem controllerWidths : Obligations.ControllerWidths := by
  intro st b clear
  obtain ⟨hl0, hl1, hh0, hh1⟩ := tstep_ranges st b clear
  exact ⟨hl0, hl1, hh0, hh1, boundPort_toInt (by omega) (by omega), boundPort_toInt (by omega) (by omega)⟩

end Sys2Proof.Machine
end

section
/-! PROOFS. What the acknowledged reads of the Profile Service return (R135, R136, R142 to R145), and the two writes that
are one transaction: WR_THRESH (R141) and CLR_INT (R140). Each action answers with what stands in its registers
(Laws/Registers), or stores its payload, and hands the result to the output ports. -/

namespace Sys2Proof.Machine

variable {c : Cfg} {s : State} {low high : Int}

/-! ### The profile block (R135, R136) -/

/-- RD_PROFILE's decoding of a block finds each register at its own place. -/
theorem CfgFacts.decodeProfile_block (h : CfgFacts c) (f : Nat → Byte) :
    decodeProfile c ((List.range 20).map fun i => f (c.aEnable.toNat + i)) = .ok
      { enable := enableFlags c (f c.aEnable.toNat)
        integration := decodeAtime (f c.aAtime.toNat)
        wait := decodeWtime (f c.aWtime.toNat)
        wlong := decodeConfig c (f c.aConfig.toNat)
        waitTimeMs := formatWtime (decodeWtime (f c.aWtime.toNat)).count (decodeConfig c (f c.aConfig.toNat))
        threshold :=
          { low := le16 (f c.aAiltl.toNat) (f (c.aAiltl.toNat + 1))
            high := le16 (f (c.aAiltl.toNat + 2)) (f (c.aAiltl.toNat + 3)) }
        filtering := decodePers c (f c.aPers.toNat)
        gain := decodeGain c (f c.aControl.toNat)
        status := statusFlags c (f c.aStatus.toNat) } := by
  obtain ⟨h1, h2, h3, h4, h5, h6, h7⟩ := h.order_lt
  have hspan := h.span
  have hat (a : BitVec 5) (hlo : c.aEnable.toNat ≤ a.toNat) (hhi : a.toNat ≤ c.aStatus.toNat) :
      byteAt ((List.range 20).map fun i => f (c.aEnable.toNat + i)) (a.toNat - c.aEnable.toNat) = f a.toNat :=
    byteAt_block f hlo (by omega)
  have hth : decodeThreshold ((List.range 4).map fun i => f (c.aAiltl.toNat + i)) = .ok
      { low := le16 (f c.aAiltl.toNat) (f (c.aAiltl.toNat + 1))
        high := le16 (f (c.aAiltl.toNat + 2)) (f (c.aAiltl.toNat + 3)) } := decodeThreshold_cons _ _ _ _ []
  simp (disch := omega) only [decodeProfile, block_slice f, hth, hat]
  rfl

/-- A register the host writes is not STATUS, so the byte that stands there is the one it holds. -/
theorem heldByte_hostWritten (h : CfgFacts s.cfg) {a : Nat} (ha : a ∈ hostWritten s.cfg) :
    s.heldByte a = s.regByte a :=
  heldByte_of_ne fun e => h.hostWritten_not_readOnly ha (e ▸ List.mem_cons_of_mem _ List.mem_cons_self)

theorem exec_rdProfile (s : State) : exec .rdProfile s = (rdProfile s).outcome .profileReading := rfl

/-- Settles O34: the block decodes register by register to what stands in the registers. -/
theorem rdProfileDecodesRegisters : Obligations.RdProfileDecodesRegisters := by
  intro s hwf ha
  have h := (cfgWellFormed_iff _).mp hwf
  have hw (a : BitVec 5) (hmem : a.toNat ∈ hostWritten s.cfg := by simp [hostWritten]) :
      s.heldByte a.toNat = s.regByte a.toNat := heldByte_hostWritten h hmem
  have hband : Band.mk (le16 (s.heldByte s.cfg.aAiltl.toNat) (s.heldByte (s.cfg.aAiltl.toNat + 1)))
      (le16 (s.heldByte (s.cfg.aAiltl.toNat + 2)) (s.heldByte (s.cfg.aAiltl.toNat + 3))) = s.bandNow := by
    rw [hw s.cfg.aAiltl, heldByte_hostWritten h (threshold_hostWritten _ (by decide)),
      heldByte_hostWritten h (threshold_hostWritten _ (by decide)),
      heldByte_hostWritten h (threshold_hostWritten _ (by decide)), State.bandNow]
  exact ⟨_, by rw [exec_rdProfile, rdProfile_ok h ha, h.decodeProfile_block s.heldByte]; rfl,
    congrArg (enableFlags s.cfg) (hw s.cfg.aEnable), congrArg decodeAtime (hw s.cfg.aAtime),
    congrArg decodeWtime (hw s.cfg.aWtime), congrArg (decodeConfig s.cfg) (hw s.cfg.aConfig), rfl, hband,
    congrArg (decodePers s.cfg) (hw s.cfg.aPers), congrArg (decodeGain s.cfg) (hw s.cfg.aControl),
    congrArg (statusFlags s.cfg) (if_pos rfl)⟩

/-! ### The window (R142) -/

/-- A read of the window cut short hands its decoder too few bytes. -/
theorem rdThresh_short (h : CfgFacts s.cfg) {n : Nat} (hn : n < 4) (ha : s.answer = .short n) :
    rdThresh s = .fail (.domain (lengthError .threshold n)) s.answered := by
  have hlen (l : List Byte) (hl : l.length = 4) : (l.take n).length = n := by rw [List.length_take]; omega
  have hlen := hlen ((List.range 4).map fun i => s.hostByte (s.cfg.aAiltl.toNat + i)) (by simp)
  rw [rdThresh, readRegs_autoinc h.threshold_inside, State.answerRead_short ha, Slice.bind,
    decodeThreshold_short (by rw [hlen]; exact hn), hlen]
  rfl

theorem exec_rdThresh (s : State) : exec .rdThresh s = (rdThresh s).outcome .band := rfl

/-- Settles O35: the window the registers hold, or the decoder's length error. -/
theorem rdThreshReturnsWindow : Obligations.RdThreshReturnsWindow := by
  refine fun s hwf => ⟨fun ha => ?_, fun n hn ha => ?_⟩
  · rw [exec_rdThresh, rdThresh_ok ((cfgWellFormed_iff _).mp hwf) ha]; rfl
  · rw [exec_rdThresh, rdThresh_short ((cfgWellFormed_iff _).mp hwf) hn ha]; rfl

/-! ### Identity, STATUS and data (R143 to R145) -/

/-- Bits apart from a mask survive the clearing of the mask's own. -/
theorem testMask_and_not {m n : Byte} (h : m &&& n = 0) (b : Byte) : testMask (b &&& ~~~m) n = testMask b n := by
  have hbits : b &&& ~~~m &&& n = b &&& n := by
    refine BitVec.eq_of_getLsbD_eq fun i hi => ?_
    have hbit := congrArg (·.getLsbD i) h
    simp only [BitVec.getLsbD_and, BitVec.getLsbD_not, hi, decide_true, Bool.true_and] at hbit ⊢
    cases hm : m.getLsbD i <;> simp_all
  rw [testMask, hbits, testMask]

/-- STATUS shows the latch in its violation bit alone: `dataValid` is as the chip has put it (R29, R155). -/
theorem State.statusByte_dataValid (h : CfgFacts s.cfg) :
    (statusFlags s.cfg s.statusByte).dataValid = testMask (s.regByte s.cfg.aStatus.toNat) s.cfg.mAvalid := by
  have hd : s.cfg.mAint &&& s.cfg.mAvalid = 0 :=
    isOneBit_disjoint (h.masks _ (by simp)) (h.masks _ (by simp)) h.statusMasks.symm
  simp only [statusFlags, State.statusByte]
  split
  · rw [testMask_or, testMask_and_not hd, testMask_maskIf_disjoint hd, Bool.or_false]
  · rfl

theorem exec_rdId (s : State) : exec .rdId s = (rdId s).outcome .byte := rfl

theorem exec_rdStatus (s : State) : exec .rdStatus s = (rdStatus s).outcome .statusFlags := rfl

/-- Settles O36: the identity byte, and the two flags of STATUS as it stands. -/
theorem rdIdAndRdStatus : Obligations.RdIdAndRdStatus := by
  intro s hwf ha
  have h := (cfgWellFormed_iff _).mp hwf
  refine ⟨by rw [exec_rdId, rdId_ok h ha]; rfl, statusFlags s.cfg s.statusByte,
    by rw [exec_rdStatus, rdStatus_ok h ha]; rfl, State.statusByte_dataValid h, s.statusByte_violation h⟩

theorem exec_rdData (s : State) : exec .rdData s = (rdData s).outcome fun d => .data d.1 d.2 := rfl

/-- Settles O37: the sample the data registers hold, with its measurement. -/
theorem rdDataReturnsSample : Obligations.RdDataReturnsSample := by
  intro s hwf ha
  exact ⟨s.dataNow, by rw [exec_rdData, rdData_ok ((cfgWellFormed_iff _).mp hwf) ha]; rfl, rfl, rfl, rfl, rfl⟩

/-! ### WR_THRESH (R141) -/

theorem exec_wrThresh (low high : Int) (s : State) :
    exec (.wrThresh low high) s = (wrThresh low high s).outcome fun _ => .acknowledged := rfl

/-- Acknowledged, the four bytes are stored. -/
theorem wrThresh_ok (h : CfgFacts s.cfg) {bs : List Byte} (he : encodeThreshold low high = .ok bs)
    (ha : s.answer = .ok) : wrThresh low high s = .ok () (s.answered.setRegs s.cfg.aAiltl.toNat bs) := by
  rw [wrThresh_eq h he, State.answerWrite_ok ha]

/-- The threshold bytes leave every register outside their block as it was. -/
theorem State.regByte_setRegs_threshold (s : State) (b : Band) {x : Nat}
    (hx : x < s.cfg.aAiltl.toNat ∨ s.cfg.aAiltl.toNat + 4 ≤ x) :
    (s.setRegs s.cfg.aAiltl.toNat (bandBytes b)).regByte x = s.regByte x := by
  have hl : (bandBytes b).length = 4 := rfl
  rw [State.regByte_setRegs, hl, if_neg (by omega)]

/-- Of a pair with a bound out of range, the encoder raises a range error (R92). -/
theorem encodeThreshold_out_of_range (h : low < 0 ∨ 0xFFFF < low ∨ high < 0 ∨ 0xFFFF < high) :
    ∃ e, encodeThreshold low high = .error e ∧ e.cls = .rangeError := by
  cases hl : inWordRange low with
  | false => exact ⟨_, encodeThreshold_low_error hl high, rfl⟩
  | true =>
    obtain ⟨w, rfl⟩ := inWordRange_iff.mp hl
    have hw := w.isLt
    exact ⟨_, encodeThreshold_high_error hl (inWordRange_eq_false (by omega)), rfl⟩

/-- Settles O38: two words are stored in their four registers; other bounds never reach the bus. -/
theorem wrThreshStoresWindow : Obligations.WrThreshStoresWindow := by
  refine fun s low high hwf ha => ⟨fun ⟨hl0, hl1, hh0, hh1⟩ => ?_, fun hout => ?_⟩
  · obtain ⟨l, rfl⟩ := exists_word hl0 hl1
    obtain ⟨u, rfl⟩ := exists_word hh0 hh1
    have hband : (s.answered.setRegs s.cfg.aAiltl.toNat (bandBytes ⟨l, u⟩)).bandNow = ⟨l, u⟩ :=
      State.bandNow_setRegs s.answered ⟨l, u⟩
    refine ⟨(s.answered.setRegs s.cfg.aAiltl.toNat (bandBytes ⟨l, u⟩)).accept .acknowledged, ?_, ?_, ?_, fun a hx => ?_,
      ?_⟩
    · rw [exec_wrThresh, wrThresh_ok ((cfgWellFormed_iff _).mp hwf) (encodeThreshold_band ⟨l, u⟩) ha]; rfl
    · rw [State.accept_bandNow, hband]
    · rw [State.accept_bandNow, hband]
    · exact State.regByte_setRegs_threshold s.answered ⟨l, u⟩ hx
    · obtain ⟨reg, hreg⟩ := s.answered.setRegs_eq s.cfg.aAiltl.toNat (bandBytes ⟨l, u⟩)
      rw [hreg]; rfl
  · obtain ⟨e, he, hcls⟩ := encodeThreshold_out_of_range hout
    exact ⟨e, by rw [exec_wrThresh, wrThresh_error he]; rfl, hcls⟩

/-! ### CLR_INT (R140) -/

theorem clrInt_ok (ha : s.answer = .ok) : clrInt s = .ok () s.answered.clearLatch := by
  rw [clrInt, sendClear_eq, State.answerClear_ok ha]

theorem exec_clrInt (s : State) : exec .clrInt s = (clrInt s).outcome fun _ => .acknowledged := rfl

/-- Settles O39: the clear takes the latch down, and the count with it or not (log 16). -/
theorem clrIntClearsLatch : Obligations.ClrIntClearsLatch := by
  intro s ha
  refine ⟨s.answered.clearLatch.accept .acknowledged, by rw [exec_clrInt, clrInt_ok ha]; rfl, rfl, rfl, fun _ => rfl, ?_,
    rfl⟩
  rw [State.accept_chip, State.clearLatch_chip]
  cases Config.clearRestartsRun
  · exact .inl rfl
  · exact .inr rfl

end Sys2Proof.Machine
end

section
/-! PROOFS. WR_PROFILE (R137 to R139, R181). A step of it issues one write of its job: a component write of the
environment's pick, or ENABLE's when none is left. What the write does is settled once per kind and answer; a whole run is
an induction on the writes left, whose register blocks lie apart. -/

namespace Sys2Proof.Machine

variable {c : Cfg} {s u : State} {p : PartialProfile} {job : WriteJob} {w : RegWrite} {landed : List Bool}

/-! ### The encoders in their order (R138) -/

theorem encodeProfile_atime_error {q : Profile} {e : OpError} (h : encodeAtime q.integrationTimeMs = .error e) :
    encodeProfile c q = .error e := by
  rw [encodeProfile, h]; rfl

theorem encodeProfile_wtime_error {q : Profile} {a : Byte} {e : OpError} (ha : encodeAtime q.integrationTimeMs = .ok a)
    (h : encodeWtime q.waitTimeMs = .error e) : encodeProfile c q = .error e := by
  rw [encodeProfile, ha, h]; rfl

/-- With no write in progress, a profile an encoder refuses goes no further. -/
theorem exec_wrProfile_refused {e : OpError} (hj : s.job = none)
    (he : encodeProfile s.cfg (mergeProfile p) = .error e) : exec (.wrProfile p) s = .next (s.raise (.domain e)) := by
  simp only [exec, execWrProfile, hj, he]

/-- Settles O40: the default of either time is 0, which its encoder refuses, the integration time's first. -/
theorem wrProfileRejectsOmittedTimes : Obligations.WrProfileRejectsOmittedTimes := by
  refine fun s p hj => ⟨fun hi => exec_wrProfile_refused hj (encodeProfile_atime_error ?_),
    fun q h1 h2 hi hw => ?_⟩
  · rw [mergeProfile, hi]
    exact encodeAtime_error (.inl (by norm_num))
  · obtain ⟨a, ha, -⟩ := exists_encodeAtime h1 h2
    refine exec_wrProfile_refused hj (encodeProfile_wtime_error (a := a) ?_ ?_)
    · rw [mergeProfile, hi]; exact ha
    · rw [mergeProfile, hw]
      exact encodeWtime_error (.inl (by norm_num))

/-! ### The coming write -/

/-- The coming step of WR_PROFILE issues a write of this job: the one its encoders give, or the one in progress. -/
def State.issuesWriteOf (s : State) (p : PartialProfile) (job : WriteJob) : Prop :=
  s.job = none ∧ encodeProfile s.cfg (mergeProfile p) = .ok job ∨ s.job = some job ∧ jobOk s.cfg job = true

theorem exec_wrProfile_issues (h : s.issuesWriteOf p job) : exec (.wrProfile p) s = advanceJob job s := by
  rcases h with ⟨hj, he⟩ | ⟨hj, -⟩
  · simp only [exec, execWrProfile, hj, he]
  · simp only [exec, execWrProfile, hj]

theorem State.issuesWriteOf.jobOk (hc : CfgFacts s.cfg) (h : s.issuesWriteOf p job) : jobOk s.cfg job = true := by
  rcases h with ⟨-, he⟩ | ⟨-, hj⟩
  · exact encodeProfile_jobOk hc he
  · exact hj

/-- The registers a write names. -/
def RegWrite.names (w : RegWrite) (a : Nat) : Prop := w.address.toNat ≤ a ∧ a < w.address.toNat + w.bytes.length

/-- A component write names host-written registers other than ENABLE (R139). -/
theorem RegWrite.names_component {a : Nat} (hw : componentOk c w = true) (ha : w.names a) :
    a ∈ hostWritten c ∧ a ≠ c.aEnable.toNat := by
  obtain ⟨hlo, hhi⟩ := ha
  simp only [componentOk, Bool.and_eq_true, List.all_eq_true, List.mem_range, List.contains_iff_mem,
    bne_iff_ne] at hw
  have h := hw.2 (a - w.address.toNat) (by omega)
  rwa [Nat.add_sub_cancel' hlo] at h

/-- A request that is not granted has failed. -/
theorem Answer.fail_of_not_granted {a : Answer} (h : a.granted = false) : ∃ landed, a = .fail landed := by
  cases a with
  | ok => exact nomatch h
  | short n => exact nomatch h
  | fail landed => exact ⟨landed, rfl⟩

theorem State.answerWrite_granted (h : s.answer.granted = true) (a : Nat) (bs : List Byte) :
    s.answerWrite a bs = .ok () (s.answered.setRegs a bs) := by
  unfold State.answerWrite
  split
  · rfl
  · rfl
  next ha => rw [ha] at h; exact nomatch h

/-- A component write that is granted. -/
theorem advanceJob_component (h : CfgFacts s.cfg) (hj : jobOk s.cfg job = true) (ha : s.answer.granted = true)
    (hw : job.pending[s.pick % job.pending.length]? = some w) :
    advanceJob job s = .next { s.picked.answered.setRegs w.address.toNat w.bytes with
      job := some { job with pending := job.pending.eraseIdx (s.pick % job.pending.length) } } := by
  rw [advanceJob, continueJob_component h hj hw, State.answerWrite_granted (s := s.picked) ha]; rfl

/-- A component write that fails. -/
theorem advanceJob_component_fail (h : CfgFacts s.cfg) (hj : jobOk s.cfg job = true) (ha : s.answer = .fail landed)
    (hw : job.pending[s.pick % job.pending.length]? = some w) :
    advanceJob job s = .next ({ s.picked.answered.landRegs w.address.toNat w.bytes landed with
      job := none }.raise .transport) := by
  rw [advanceJob, continueJob_component h hj hw, State.answerWrite_fail (s := s.picked) ha]; rfl

/-- The write of ENABLE, granted. -/
theorem advanceJob_enable (h : CfgFacts s.cfg) (hj : jobOk s.cfg job = true) (ha : s.answer.granted = true)
    (hp : job.pending = []) : advanceJob job s =
      .next ({ s.answered.setRegs s.cfg.aEnable.toNat job.enable.bytes with job := none }.accept .acknowledged) := by
  rw [advanceJob, continueJob_enable h hj hp, State.answerWrite_granted ha]; rfl

/-- The write of ENABLE, failed. -/
theorem advanceJob_enable_fail (h : CfgFacts s.cfg) (hj : jobOk s.cfg job = true) (ha : s.answer = .fail landed)
    (hp : job.pending = []) : advanceJob job s =
      .next ({ s.answered.landRegs s.cfg.aEnable.toNat job.enable.bytes landed with job := none }.raise .transport) := by
  rw [advanceJob, continueJob_enable h hj hp, State.answerWrite_fail ha]; rfl

/-- What a block store leaves in the registers it names and in the others. -/
theorem RegWrite.regByte_setRegs (w : RegWrite) (s : State) :
    (∀ i < w.bytes.length,
        (s.setRegs w.address.toNat w.bytes).regByte (w.address.toNat + i) = w.bytes.getD i 0)
      ∧ ∀ a, ¬ w.names a → (s.setRegs w.address.toNat w.bytes).regByte a = s.regByte a := by
  refine ⟨fun i hi => ?_, fun a ha => ?_⟩
  · rw [State.regByte_setRegs, if_pos (by omega), Nat.add_sub_cancel_left]
  · rw [State.regByte_setRegs]; exact if_neg ha

/-- A failed write of ENABLE changes no register (log 9). -/
theorem State.regByte_landRegs_enable (s : State) {bs : List Byte} (hl : bs.length = 1) (l : List Bool) (a : Nat) :
    (s.landRegs s.cfg.aEnable.toNat bs l).regByte a = s.regByte a :=
  (State.regByte_landRegs s _ bs l a).resolve_right fun ⟨hne, h1, h2, _⟩ => hne (by omega)

/-- Settles O41: the granted write of each kind, its payload read back register by register. -/
theorem wrProfileIssuesOneWrite : Obligations.WrProfileIssuesOneWrite := by
  intro s p job hwf ha hissue
  have h := (cfgWellFormed_iff _).mp hwf
  have hg : s.answer.granted = true := by rw [ha]; rfl
  have hj := State.issuesWriteOf.jobOk h hissue
  rw [exec_wrProfile_issues hissue]
  refine ⟨fun w hw => ?_, fun hp => ?_⟩
  · obtain ⟨hstored, hothers⟩ := w.regByte_setRegs s.picked.answered
    refine ⟨_, advanceJob_component h hj hg hw, ?_, hstored, fun a hout => hothers a fun hn => ?_⟩
    · obtain ⟨reg, hreg⟩ := s.picked.answered.setRegs_eq w.address.toNat w.bytes
      rw [hreg]; rfl
    · obtain ⟨h1, h2⟩ := hn
      omega
  · obtain ⟨-, -, -, hlen⟩ := jobOk_iff.mp hj
    refine ⟨_, advanceJob_enable h hj hg hp, ?_, fun a => State.regByte_setRegs_single s.answered hlen a⟩
    obtain ⟨reg, hreg⟩ := s.answered.setRegs_eq s.cfg.aEnable.toNat job.enable.bytes
    rw [hreg]; rfl

/-! ### Failed writes (R40, R139, R147, U6) -/

/-- WR_THRESH of a window its encoder takes, failed. -/
theorem exec_wrThresh_fail {low high : Int} {bs : List Byte} (h : CfgFacts s.cfg)
    (he : encodeThreshold low high = .ok bs) (ha : s.answer = .fail landed) : exec (.wrThresh low high) s =
      .next ((s.answered.landRegs s.cfg.aAiltl.toNat bs landed).raise .transport) := by
  rw [exec_wrThresh, wrThresh_eq h he, State.answerWrite_fail ha]; rfl

theorem State.landRegs_out (s : State) (a : Nat) (bs : List Byte) (l : List Bool) :
    (s.landRegs a bs l).out = s.out := by
  obtain ⟨_, h⟩ := s.landRegs_eq a bs l; rw [h]

/-- Settles O44: each failed write lands in part, and ENABLE's not at all. -/
theorem failedWriteLeavesOldOrNew : Obligations.FailedWriteLeavesOldOrNew := by
  refine ⟨fun s low high bs landed hwf ha he => ?_, fun s p job landed hwf ha hissue => ?_⟩
  · have h := (cfgWellFormed_iff _).mp hwf
    have hl := encodeThreshold_length he
    refine ⟨_, exec_wrThresh_fail h he ha, rfl, State.landRegs_out .., fun a => ?_⟩
    have hland := State.regByte_landRegs s.answered s.cfg.aAiltl.toNat bs landed a
    rw [hl] at hland
    exact hland.imp_right fun ⟨_, h⟩ => h
  · have h := (cfgWellFormed_iff _).mp hwf
    have hj := State.issuesWriteOf.jobOk h hissue
    rw [exec_wrProfile_issues hissue]
    by_cases hp : job.pending = []
    · obtain ⟨-, -, -, hlen⟩ := jobOk_iff.mp hj
      refine ⟨_, advanceJob_enable_fail h hj ha hp, rfl, State.landRegs_out .., rfl, fun w hw => ?_, fun _ a => ?_⟩
      · simp [hp] at hw
      · exact State.regByte_landRegs_enable s.answered hlen landed a
    · obtain ⟨w, -, hw⟩ := exists_picked s hp
      refine ⟨_, advanceJob_component_fail h hj ha hw, rfl, State.landRegs_out .., rfl, fun v hv a => ?_,
        fun hnil => absurd hnil hp⟩
      obtain rfl : w = v := Option.some.inj (hw.symm.trans hv)
      exact (State.regByte_landRegs s.picked.answered _ w.bytes landed a).imp_right fun ⟨_, h⟩ => h

/-! ### ENABLE is written last (R139, R181) -/

/-- What the encoders give has component writes to issue first. -/
theorem encodeProfile_pending_ne_nil {q : Profile} (h : encodeProfile c q = .ok job) : job.pending ≠ [] := by
  obtain ⟨_, _, _, _, _, _, -, -, -, -, -, hp, -⟩ := encodeProfile_eq h
  rw [hp]; exact List.cons_ne_nil _ _

/-- The step that issues a write of a job: it leaves ENABLE alone unless it is ENABLE's own write, granted; and a failure
ends the job. -/
theorem advanceJob_enable_last {t : State} (h : CfgFacts s.cfg) (hj : jobOk s.cfg job = true)
    (ht : advanceJob job s = .next t) :
    (t.regByte s.cfg.aEnable.toNat ≠ s.regByte s.cfg.aEnable.toNat →
      job.pending = [] ∧ t.job = none ∧ t.out = some .acknowledged ∧ t.err = none)
    ∧ (∀ landed, s.answer = .fail landed →
      t.regByte s.cfg.aEnable.toNat = s.regByte s.cfg.aEnable.toNat ∧ t.job = none ∧ t.out = s.out ∧ t.err ≠ none) := by
  obtain ⟨hcomp, -, -, hlen⟩ := jobOk_iff.mp hj
  by_cases hp : job.pending = []
  · cases hg : s.answer.granted with
    | true =>
      rw [advanceJob_enable h hj hg hp] at ht
      cases ht
      exact ⟨fun _ => ⟨hp, rfl, rfl, rfl⟩, fun landed ha => by rw [ha] at hg; exact nomatch hg⟩
    | false =>
      obtain ⟨landed, ha⟩ := Answer.fail_of_not_granted hg
      rw [advanceJob_enable_fail h hj ha hp] at ht
      cases ht
      have hkeep := State.regByte_landRegs_enable s.answered hlen landed s.cfg.aEnable.toNat
      exact ⟨fun hne => absurd hkeep hne, fun _ _ => ⟨hkeep, rfl, State.landRegs_out .., nofun⟩⟩
  · obtain ⟨w, hmem, hw⟩ := exists_picked s hp
    have hnot : ¬ w.names s.cfg.aEnable.toNat := fun hn => (RegWrite.names_component (hcomp w hmem) hn).2 rfl
    cases hg : s.answer.granted with
    | true =>
      rw [advanceJob_component h hj hg hw] at ht
      cases ht
      have hkeep := (w.regByte_setRegs s.picked.answered).2 _ hnot
      exact ⟨fun hne => absurd hkeep hne, fun landed ha => by rw [ha] at hg; exact nomatch hg⟩
    | false =>
      obtain ⟨landed, ha⟩ := Answer.fail_of_not_granted hg
      rw [advanceJob_component_fail h hj ha hw] at ht
      cases ht
      have hkeep := (State.regByte_landRegs s.picked.answered w.address.toNat w.bytes landed
        s.cfg.aEnable.toNat).resolve_right fun hr => hr.1 rfl
      exact ⟨fun hne => absurd hkeep hne, fun _ _ => ⟨hkeep, rfl, State.landRegs_out .., nofun⟩⟩

/-- Settles O43: a refused profile writes nothing, a fresh job begins with a component write, and a job in progress writes
ENABLE last. -/
theorem enableWrittenLast : Obligations.EnableWrittenLast := by
  intro s t p hs ht
  obtain ⟨h, -, -, hjob, -⟩ := State.sound_iff.mp hs
  cases hj : s.job with
  | some job =>
    have hissue : s.issuesWriteOf p job := .inr ⟨hj, hjob job hj⟩
    rw [exec_wrProfile_issues hissue] at ht
    obtain ⟨hlast, hfail⟩ := advanceJob_enable_last h (hissue.jobOk h) ht
    exact ⟨fun hne => ⟨⟨job, rfl, (hlast hne).1⟩, (hlast hne).2⟩, hfail⟩
  | none =>
    cases he : encodeProfile s.cfg (mergeProfile p) with
    | error e =>
      rw [exec_wrProfile_refused hj he] at ht
      cases ht
      exact ⟨fun hne => absurd rfl hne, fun _ _ => ⟨rfl, hj, rfl, nofun⟩⟩
    | ok job =>
      have hissue : s.issuesWriteOf p job := .inl ⟨hj, he⟩
      rw [exec_wrProfile_issues hissue] at ht
      obtain ⟨hlast, hfail⟩ := advanceJob_enable_last h (hissue.jobOk h) ht
      exact ⟨fun hne => absurd (hlast hne).1 (encodeProfile_pending_ne_nil he), hfail⟩

/-! ### A whole run (R51, R137 to R139) -/

/-- No register is named by both writes. -/
def RegWrite.Apart (v w : RegWrite) : Prop := ∀ a, v.names a → ¬ w.names a

theorem RegWrite.apart_of_le {v w : RegWrite} (h : v.address.toNat + v.bytes.length ≤ w.address.toNat) : v.Apart w :=
  fun _ hv hw => by
    obtain ⟨-, hv⟩ := hv
    obtain ⟨hw, -⟩ := hw
    omega

theorem RegWrite.Apart.symm {v w : RegWrite} (h : v.Apart w) : w.Apart v := fun a hw hv => h a hv hw

/-- The machine is in the middle of an issued WR_PROFILE, its only pending work, and every request is granted. -/
structure WrProfileDue (p : PartialProfile) (job : WriteJob) (s : State) : Prop where
  cfg : CfgFacts s.cfg
  schedule : s.schedule = []
  answers : s.answers = []
  queue : s.queue = [.issue (.service (.wrProfile p))]
  issues : s.issuesWriteOf p job
  apart : job.pending.Pairwise RegWrite.Apart

/-- One write has been done, and nothing else in the registers and the latch has changed. -/
structure WriteDone (w : RegWrite) (s u : State) : Prop where
  cfg : u.cfg = s.cfg
  stored : ∀ i < w.bytes.length, u.regByte (w.address.toNat + i) = w.bytes.getD i 0
  others : ∀ a, ¬ w.names a → u.regByte a = s.regByte a
  latch : u.chip.latch = s.chip.latch

/-- What the rest of a job has made of the machine. -/
structure JobDone (job : WriteJob) (s r : State) : Prop where
  cfg : r.cfg = s.cfg
  stored : ∀ w ∈ job.pending, ∀ i < w.bytes.length, r.regByte (w.address.toNat + i) = w.bytes.getD i 0
  enable : r.regByte s.cfg.aEnable.toNat = job.enable.bytes.getD 0 0
  others : ∀ a, a ≠ s.cfg.aEnable.toNat → (∀ w ∈ job.pending, ¬ w.names a) → r.regByte a = s.regByte a
  latch : r.chip.latch = s.chip.latch
  ended : r.queue = [] ∧ r.job = none ∧ r.out = some .acknowledged ∧ r.err = none

theorem WrProfileDue.granted (h : WrProfileDue p job s) : s.answer.granted = true := by
  rw [State.answer, h.answers]; rfl

/-- A step of it that leaves the latch alone is the operation's, which leaves the queue with its last write. -/
theorem WrProfileDue.step_of (h : WrProfileDue p job s) (ht : advanceJob job s = .next u)
    (hl : u.chip.latch = s.chip.latch) :
    step s = .next (if u.job.isNone then { u with queue := [] } else u) := by
  rw [step_of_empty h.schedule, foreground_issue h.queue (i := .wrProfile p) rfl, exec_wrProfile_issues h.issues, ht]
  refine congrArg Host.Outcome.next (observeEdge_same_latch ?_)
  rw [← hl]
  exact apply_ite (fun x : State => x.chip.latch) _ _ _ |>.trans (ite_self _)

/-- The last step writes ENABLE. -/
theorem WrProfileDue.run_enable (h : WrProfileDue p job s) (hp : job.pending = []) :
    ∃ r, step s = .next r ∧ JobDone job s r := by
  have hj := h.issues.jobOk h.cfg
  obtain ⟨-, -, -, hlen⟩ := jobOk_iff.mp hj
  have hreg := State.regByte_setRegs_single s.answered (a := s.cfg.aEnable.toNat) hlen
  refine ⟨_, h.step_of (advanceJob_enable h.cfg hj h.granted hp) (State.setRegs_latch ..), State.setRegs_cfg .., ?_, ?_, ?_,
    State.setRegs_latch .., rfl, rfl, rfl, rfl⟩
  · simp [hp]
  · exact (hreg _).trans (if_pos rfl)
  · exact fun a ha _ => (hreg a).trans (if_neg ha)

/-- Any other step stores the write picked, and the rest of the job is due. -/
theorem WrProfileDue.step_component (h : WrProfileDue p job s)
    (hw : job.pending[s.pick % job.pending.length]? = some w) :
    ∃ u, step s = .next u ∧ WriteDone w s u
      ∧ WrProfileDue p { job with pending := job.pending.eraseIdx (s.pick % job.pending.length) } u := by
  have hj := h.issues.jobOk h.cfg
  obtain ⟨reg, hreg⟩ := s.picked.answered.setRegs_eq w.address.toNat w.bytes
  obtain ⟨hstored, hothers⟩ := w.regByte_setRegs s.picked.answered
  refine ⟨_, h.step_of (advanceJob_component h.cfg hj h.granted hw) (State.setRegs_latch ..),
    ⟨State.setRegs_cfg .., hstored, hothers, State.setRegs_latch ..⟩, ?_⟩
  simp only [Option.isNone_some, Bool.false_eq_true, if_false, hreg]
  exact ⟨h.cfg, h.schedule, by simp [h.answers], h.queue, .inr ⟨rfl, jobOk_eraseIdx hj _⟩,
    h.apart.sublist (List.eraseIdx_sublist ..)⟩

/-- The job done after its first write is the whole job done. -/
theorem JobDone.of_component {r : State} {rest : WriteJob} (hcomp : componentOk s.cfg w = true)
    (hperm : (w :: rest.pending).Perm job.pending) (he : rest.enable = job.enable)
    (hapart : job.pending.Pairwise RegWrite.Apart) (hdone : WriteDone w s u) (h : JobDone rest u r) :
    JobDone job s r := by
  obtain ⟨hcfg, hstored, hothers, hlatch⟩ := hdone
  have hw : ∀ v ∈ rest.pending, w.Apart v :=
    (List.pairwise_cons.mp ((hperm.pairwise_iff fun h => h.symm).mpr hapart)).1
  have hmem : ∀ v, v ∈ job.pending ↔ v = w ∨ v ∈ rest.pending := fun v => by
    rw [← hperm.mem_iff, List.mem_cons]
  refine ⟨h.cfg.trans hcfg, fun v hv i hi => ?_, by rw [← hcfg, h.enable, he], fun a ha hnone => ?_,
    h.latch.trans hlatch, h.ended⟩
  · rcases (hmem v).mp hv with rfl | hv
    · have hn : v.names (v.address.toNat + i) := ⟨by omega, by omega⟩
      rw [h.others _ (hcfg ▸ (RegWrite.names_component hcomp hn).2) fun x hx => hw x hx _ hn, hstored i hi]
    · exact h.stored v hv i hi
  · rw [h.others a (hcfg ▸ ha) fun v hv => hnone v ((hmem v).mpr (.inr hv)), hothers a (hnone w ((hmem w).mpr (.inl rfl)))]

/-- By induction on the component writes left: one step for each, and one for ENABLE. -/
theorem WrProfileDue.run {n : Nat} (h : WrProfileDue p job s) (hn : job.pending.length = n) :
    ∃ r : State, core.run (n + 1) s = .next r ∧ JobDone job s r := by
  induction n generalizing s job with
  | zero =>
    obtain ⟨r, hr, hdone⟩ := h.run_enable (List.length_eq_zero_iff.mp hn)
    exact ⟨r, core_run_next hr, hdone⟩
  | succ n ih =>
    have hne : job.pending ≠ [] := List.ne_nil_of_length_eq_add_one hn
    obtain ⟨w, hmem, hw⟩ := exists_picked s hne
    obtain ⟨hlt, hget⟩ := List.getElem?_eq_some_iff.mp hw
    obtain ⟨u, hstep, hwrite, hdue⟩ := h.step_component hw
    obtain ⟨r, hr, hdone⟩ := ih hdue (by simp only [List.length_eraseIdx_of_lt hlt]; omega)
    refine ⟨r, (core_run_next hstep).trans hr, ?_⟩
    have hperm := List.getElem_cons_eraseIdx_perm hlt
    rw [hget] at hperm
    exact hdone.of_component (rest := { job with pending := _ }) ((jobOk_iff.mp (h.issues.jobOk h.cfg)).1 w hmem) hperm
      rfl h.apart hwrite

/-- The writes of a profile lie apart (R20). -/
theorem encodeProfile_apart (h : CfgFacts c) {q : Profile} (he : encodeProfile c q = .ok job) :
    job.pending.Pairwise RegWrite.Apart := by
  obtain ⟨a, w, l, t, sp, g, -, -, ht, -, -, hp, -⟩ := encodeProfile_eq he
  have horder := h.order_lt
  have hlen := encodeThreshold_length ht
  have hrising : job.pending.Pairwise fun v w => v.address.toNat + v.bytes.length ≤ w.address.toNat := by
    simp only [hp, List.pairwise_cons, List.mem_cons, List.not_mem_nil, or_false, forall_eq_or_imp, forall_eq,
      List.Pairwise.nil, and_true, hlen, List.length_singleton, IsEmpty.forall_iff, implies_true]
    omega
  exact hrising.imp RegWrite.apart_of_le

/-- A profile every encoder takes has a job (R138). -/
theorem encodeProfile_ok {q : Profile} {a w g sp : Byte} {l : Bool} {t : List Byte}
    (ha : encodeAtime q.integrationTimeMs = .ok a) (hw : encodeWtime q.waitTimeMs = .ok (w, l))
    (ht : encodeThreshold q.threshold.low q.threshold.high = .ok t) (hsp : encodePers c q.filtering = .ok sp)
    (hg : encodeGain c q.gain = .ok g) : ∃ job, encodeProfile c q = .ok job := by
  rw [encodeProfile, ha, hw, ht, hsp, hg]; exact ⟨_, rfl⟩

/-- Settles O42: the run of the encoders' job, each of its payloads read back. -/
theorem wrProfileRunStoresProfile : Obligations.WrProfileRunStoresProfile := by
  intro s p a w g sp l t hwf hsch hans hjob hq ha hw ht hsp hg
  have h := (cfgWellFormed_iff _).mp hwf
  obtain ⟨job, he⟩ := encodeProfile_ok ha hw ht hsp hg
  have hcomp := (jobOk_iff.mp (encodeProfile_jobOk h he)).1
  have hdue : WrProfileDue p job s := ⟨h, hsch, hans, hq, .inl ⟨hjob, he⟩, encodeProfile_apart h he⟩
  obtain ⟨a', w', l', t', sp', g', ha', hw', ht', hsp', hg', hpend, hen⟩ := encodeProfile_eq he
  cases ha.symm.trans ha'
  cases hw.symm.trans hw'
  cases ht.symm.trans ht'
  cases hsp.symm.trans hsp'
  cases hg.symm.trans hg'
  obtain ⟨r, hrun, hdone⟩ := hdue.run (n := 6) (by rw [hpend]; rfl)
  obtain ⟨hqueue, hj, hout, herr⟩ := hdone.ended
  have hstored := hdone.stored
  rw [hpend] at hstored
  simp only [List.mem_cons, List.not_mem_nil, or_false, forall_eq_or_imp, forall_eq, List.length_singleton,
    Nat.lt_one_iff, Nat.add_zero, List.getD_cons_zero] at hstored
  obtain ⟨hra, hrw, hrt, hrs, hrc, hrg⟩ := hstored
  refine ⟨r, hrun, hqueue, hj, hout, herr, hra, hrw, ?_, hrs, hrc, hrg, ?_, fun x hx => ?_, hdone.latch⟩
  · obtain ⟨b0, b1, b2, b3, rfl⟩ := List.length_eq_four.mp (encodeThreshold_length ht)
    have hbyte (i : Nat) (hi : i < 4) : r.regByte (s.cfg.aAiltl.toNat + i) = [b0, b1, b2, b3].getD i 0 := hrt i hi
    have hlow : r.regByte s.cfg.aAiltl.toNat = b0 := hbyte 0 (by decide)
    rw [decodeThreshold_cons, State.bandNow, hdone.cfg, hlow, hbyte 1 (by decide), hbyte 2 (by decide),
      hbyte 3 (by decide)]
    rfl
  · rw [hdone.enable, hen]; rfl
  · exact hdone.others x (fun e => hx (e ▸ List.mem_cons_self))
      fun v hv hn => hx (RegWrite.names_component (hcomp v hv) hn).1

end Sys2Proof.Machine
end

section
/-! PROOFS. No sound state is stuck (R148, R150, R152): under well-formed parameters every action over the bus hands back a
state, whatever the transport answers, so every turn answers but a primitive built by hand. The lemmas go in the order of
the definitions, from the actions up to the step. -/

namespace Sys2Proof.Machine

variable {α β : Type} {s : State} {job : WriteJob}

/-- The action hands back a state: it neither faults nor is it refused. -/
def Slice.Runs (x : Slice α) : Prop := x.Answers fun _ => True

/-- The turn answers a next state. -/
def Res.Answers (r : Res) : Prop := ∃ t, r = .next t

theorem Slice.Answers.runs {x : Slice α} {P : State → Prop} (h : x.Answers P) : x.Runs := h.imp fun _ _ => trivial

theorem Slice.Runs.bind {x : Slice α} {k : α → State → Slice β} (h : x.Runs) (hk : ∀ a s, (k a s).Runs) :
    (x.bind k).Runs := Slice.Answers.bind h fun a s _ => hk a s

/-- An action that hands back a state does so with a value or with a failure. -/
theorem Slice.Runs.ok_or_fail {x : Slice α} (h : x.Runs) : (∃ a t, x = .ok a t) ∨ ∃ f t, x = .fail f t := by
  cases x with
  | ok a t => exact .inl ⟨a, t, rfl⟩
  | fail f t => exact .inr ⟨f, t, rfl⟩
  | fault r => exact h.elim
  | refused r => exact h.elim

theorem Slice.Runs.outcome {x : Slice α} (h : x.Runs) (f : α → Result) : Res.Answers (x.outcome f) := by
  rcases h.ok_or_fail with ⟨a, t, rfl⟩ | ⟨e, t, rfl⟩ <;> exact ⟨_, rfl⟩

theorem Slice.Runs.endTurn {x : Slice (Option α)} (h : x.Runs) (who : Activity) (keep : State → Option α → State) :
    Res.Answers (endTurn who x keep) := by
  rcases h.ok_or_fail with ⟨a, t, rfl⟩ | ⟨e, t, rfl⟩ <;> exact ⟨_, rfl⟩

/-! ### The Profile Service and the operations -/

/-- One write of a sound job. -/
theorem continueJob_runs (h : CfgFacts s.cfg) (hj : jobOk s.cfg job = true) : (continueJob job s).Runs := by
  by_cases hp : job.pending = []
  · rw [continueJob_enable h hj hp]
    exact (s.answerWrite_answers _ _).runs.bind fun _ _ => trivial
  · obtain ⟨w, -, hw⟩ := exists_picked s hp
    rw [continueJob_component h hj hw]
    exact (s.picked.answerWrite_answers _ _).runs.bind fun _ _ => trivial

theorem advanceJob_answers (h : CfgFacts s.cfg) (hj : jobOk s.cfg job = true) : Res.Answers (advanceJob job s) := by
  rcases (continueJob_runs h hj).ok_or_fail with ⟨_ | rest, t, hx⟩ | ⟨f, t, hx⟩ <;> exact ⟨_, by rw [advanceJob, hx]⟩

theorem execWrProfile_answers (h : CfgFacts s.cfg) (hj : s.jobSound) (p : PartialProfile) :
    Res.Answers (execWrProfile p s) := by
  unfold execWrProfile
  split
  next job hjob => exact advanceJob_answers h (hj job hjob)
  · split
    · exact ⟨_, rfl⟩
    next job he => exact advanceJob_answers h (encodeProfile_jobOk h he)

/-- Errors of operations are results (R148, R150). -/
theorem exec_answers (h : CfgFacts s.cfg) (hj : s.jobSound) (i : Instr) : Res.Answers (exec i s) := by
  cases hb : i.blockOperation with
  | true =>
    obtain ⟨f, hf⟩ := exec_settles hb
    exact ⟨_, hf s⟩
  | false =>
    cases i with
    | rdProfile => exact (rdProfile_answers h).runs.outcome _
    | wrProfile profile => exact execWrProfile_answers h hj profile
    | clrInt => exact (clrInt_answers s).runs.outcome _
    | wrThresh low high => exact (wrThresh_answers h low high).runs.outcome _
    | rdThresh => exact (rdThresh_answers h).runs.outcome _
    | rdId => exact (rdId_answers h).runs.outcome _
    | rdStatus => exact (rdStatus_answers h).runs.outcome _
    | rdData => exact (rdData_answers h).runs.outcome _
    | _ => exact nomatch hb

/-! ### The two service paths (R152, R157, R158) -/

theorem decideService_runs (who : Activity) (st : Strategy) (b : Band) (clear : Word) (s : State) :
    (decideService who st b clear s).Runs := by
  obtain ⟨p, u, h, -⟩ := decideService_ok who st b clear s
  rw [h]; trivial

theorem serviceSlice_runs (h : CfgFacts s.cfg) (who : Activity) (st : Strategy) (q : ServicePhase) :
    (serviceSlice who st q s).Runs := by
  cases q with
  | readBoth =>
    simp only [serviceSlice]
    split
    · exact (rdThresh_answers (s := s.picked) h).runs.bind fun _ _ => trivial
    · exact (rdData_answers (s := s.picked) h).runs.bind fun _ _ => trivial
  | readSample b => exact (rdData_answers h).runs.bind fun d t => decideService_runs who st b d.1.clear t
  | readThreshold clear => exact (rdThresh_answers h).runs.bind fun b t => decideService_runs who st b clear t
  | write r => exact (wrThresh_answers h r.newLow r.newHigh).runs.bind fun _ _ => trivial
  | rewrite r => exact (wrThresh_answers h r.newLow r.newHigh).runs.bind fun _ _ => trivial
  | clear => exact (clrInt_answers s).runs.bind fun _ _ => trivial

theorem withBus_runs {x : Slice α} (h : x.Runs) : (withBus s x).Runs := by
  unfold withBus
  split
  · exact h
  · trivial

theorem irqTurn_answers (h : CfgFacts s.cfg) : Res.Answers (irqTurn s) := by
  cases hp : s.session.irq with
  | some q =>
    simp only [irqTurn, hp]
    split
    · exact (withBus_runs (serviceSlice_runs h _ _ q)).endTurn _ _
    · exact ⟨_, rfl⟩
  | none => rcases irqTurn_idle hp with ⟨hi, -⟩ | ⟨hi, -⟩ <;> exact ⟨_, hi⟩

theorem afterPollRead_runs (hc : HostConfig) (r : PollResult) (s : State) : (afterPollRead hc r s).Runs := by
  unfold afterPollRead
  split <;> trivial

theorem afterData_runs (hc : HostConfig) (r : PollResult) (d : Sample × Measurement) (s : State) :
    (afterData hc r d s).Runs := by
  obtain ⟨q, u, h, -⟩ := afterData_ok hc r d s
  rw [h]; trivial

theorem pollRead_runs (h : CfgFacts s.cfg) (hc : HostConfig) : (pollRead hc s).Runs := by
  unfold pollRead
  split
  · exact (rdStatus_answers h).runs.bind fun _ _ => trivial
  · exact (rdProfile_answers h).runs.bind fun _ _ => trivial

theorem pollSlice_runs (h : CfgFacts s.cfg) (hc : HostConfig) (p : PollPhase) : (pollSlice hc p s).Runs := by
  cases p with
  | read => exact (pollRead_runs h hc).bind (afterPollRead_runs hc)
  | ledDelay r => trivial
  | readData r => exact (rdData_answers h).runs.bind (afterData_runs hc r)
  | service q => exact (serviceSlice_runs h .poll hc.strategy q).bind fun _ _ => trivial

theorem pollTurn_answers (h : CfgFacts s.cfg) : Res.Answers (pollTurn s) := by
  unfold pollTurn
  split
  · split
    · exact (withBus_runs (pollSlice_runs h _ _)).endTurn _ _
    · exact ⟨_, rfl⟩
  · exact ⟨_, rfl⟩

/-! ### The setup sequence (R152, R162, R163) -/

theorem verifyIdentity_answers (h : CfgFacts s.cfg) (hc : HostConfig) : Res.Answers (verifyIdentity hc s) := by
  rcases (rdId_answers h).runs.ok_or_fail with ⟨b, t, hx⟩ | ⟨f, t, hx⟩ <;> exact ⟨_, by rw [verifyIdentity, hx]⟩

theorem applyWrites_answers (h : CfgFacts s.cfg) (hj : jobOk s.cfg job = true) (hc : HostConfig) :
    Res.Answers (applyWrites hc job s) := by
  rcases (continueJob_runs h hj).ok_or_fail with ⟨_ | rest, t, hx⟩ | ⟨f, t, hx⟩ <;> exact ⟨_, by rw [applyWrites, hx]⟩

theorem applyClear_answers (hc : HostConfig) (s : State) : Res.Answers (applyClear hc s) := by
  rcases (clrInt_answers s).runs.ok_or_fail with ⟨a, t, hx⟩ | ⟨f, t, hx⟩ <;> exact ⟨_, by rw [applyClear, hx]⟩

theorem applyTurn_answers (h : CfgFacts s.cfg) (hn : SessionFacts s.cfg s.session) (hc : HostConfig) :
    Res.Answers (applyTurn hc s) := by
  unfold applyTurn
  split
  next job ha => exact applyWrites_answers h ((hn.applying _ ha).2.2 job rfl) hc
  · exact applyClear_answers hc s
  · split
    · exact ⟨_, rfl⟩
    next job he => exact applyWrites_answers h (encodeProfile_jobOk h he) hc

theorem setupTurn_answers (h : CfgFacts s.cfg) (hn : SessionFacts s.cfg s.session) : Res.Answers (setupTurn s) := by
  unfold setupTurn
  split
  · exact ⟨_, rfl⟩
  next hc _ =>
    cases s.session.lifecycle with
    | verifyingIdentity => exact verifyIdentity_answers h hc
    | applyingProfile => exact applyTurn_answers h hn hc
    | connecting | unconfigured | running | stopped | retryWaiting => exact ⟨_, rfl⟩

/-! ### The turns and the step -/

/-- The foreground answers unless a primitive built by hand is due. -/
theorem foreground_answers (h : CfgFacts s.cfg) (hj : s.jobSound) (hb : s.handBuilt = false) :
    Res.Answers (foreground s) := by
  unfold foreground
  split
  · exact ⟨_, rfl⟩
  next b rest hq => simp [State.handBuilt, hq] at hb
  next item rest hq =>
    split
    · exact ⟨_, rfl⟩
    next i _ =>
      obtain ⟨t, ht⟩ := exec_answers h hj i
      exact ⟨_, by rw [ht]; rfl⟩

/-- Every other agent answers. -/
theorem runTurn_answers (h : CfgFacts s.cfg) (hn : SessionFacts s.cfg s.session) {u : Turn} (hu : u ≠ .foreground) :
    Res.Answers (runTurn u s) := by
  cases u with
  | foreground => exact absurd rfl hu
  | setup => exact setupTurn_answers h hn
  | poll => exact pollTurn_answers h
  | irq => exact irqTurn_answers h
  | call c => exact ⟨_, rfl⟩
  | retryFires => exact ⟨_, rfl⟩
  | pollFires => exact ⟨_, rfl⟩
  | chip act => exact ⟨_, rfl⟩

theorem scheduled_answers (hs : s.sound = true)
    (h : s.handBuilt = false ∨ ∃ u rest, s.schedule = u :: rest ∧ u ≠ .foreground) : Res.Answers (scheduled s) := by
  obtain ⟨hc, -, hn, hj, -⟩ := State.sound_iff.mp hs
  have hfore (hf : s.schedule = [] ∨ ∃ rest, s.schedule = .foreground :: rest) : s.handBuilt = false :=
    h.resolve_right fun ⟨u, rest, hsch, hu⟩ => by
      rcases hf with hf | ⟨rest', hf⟩ <;> rw [hsch] at hf
      · exact nomatch hf
      · exact hu (List.cons.inj hf).1
  unfold scheduled
  split
  next hsch => exact foreground_answers hc hj (hfore (.inl hsch))
  next u rest hsch =>
    by_cases hu : u = .foreground
    · subst hu
      exact foreground_answers (s := { s with schedule := rest }) hc hj (hfore (.inr ⟨rest, hsch⟩))
    · exact runTurn_answers (s := { s with schedule := rest }) hc hn hu

/-- Settles O49: the agent that moves answers, and the watcher stops nothing. -/
theorem soundStepsAnswer : Obligations.SoundStepsAnswer := by
  intro s hs h
  obtain ⟨r, hr⟩ := scheduled_answers hs h
  exact ⟨_, by rw [step, hr]; rfl⟩

end Sys2Proof.Machine
end

section
/-! PROOFS. The comparator and the interrupt path's edge (R153 to R156, R166, R167, R185): what a completed cycle makes of
count, latch and edge, what a turn of the idle interrupt path makes of a pending edge, and why a stuck path stays stuck. -/

namespace Sys2Proof.Machine

variable {α : Type} {s t : State} {rest : List Turn}

/-! ### A completed cycle (R153, R154) -/

/-- The chip's stores leave the window, the flags and the persistence value as they were. -/
theorem State.chipStores_config (h : CfgFacts s.cfg) (status : Byte) (x : Sample) :
    (s.chipStores status x).bandNow = s.bandNow ∧ (s.chipStores status x).enableNow = s.enableNow
      ∧ (s.chipStores status x).filterNow = s.filterNow := by
  have hcfg := (s.chipStores_keeps status x).cfg
  have hreg : ∀ a ∈ hostWritten s.cfg, (s.chipStores status x).regByte a = s.regByte a :=
    fun a ha => State.regByte_chipStores_hostWritten h status x ha
  refine ⟨?_, ?_, ?_⟩
  · simp only [State.bandNow, hcfg, hreg _ (threshold_hostWritten s.cfg (i := 1) (by decide)),
      hreg _ (threshold_hostWritten s.cfg (i := 2) (by decide)),
      hreg _ (threshold_hostWritten s.cfg (i := 3) (by decide)),
      hreg s.cfg.aAiltl.toNat (threshold_hostWritten s.cfg (i := 0) (by decide))]
  · simp only [State.enableNow, hcfg, hreg s.cfg.aEnable.toNat (by simp [hostWritten])]
  · simp only [State.filterNow, hcfg, hreg s.cfg.aPers.toNat (by simp [hostWritten])]

theorem outsideBand_iff {b : Band} {clear : Word} :
    outsideBand b clear = true ↔ b.high.toNat < clear.toNat ∨ clear.toNat < b.low.toNat := by
  simp only [outsideBand, Bool.or_eq_true, decide_eq_true_eq]

/-- A cycle completed while converting, with interrupts enabled and a count in PERS. -/
theorem chipActs_cycle_count (h : CfgFacts s.cfg) (hconv : s.converting = true) (hi : s.enableNow.interrupts = true)
    {n : Nat} (hf : s.filterNow = .count n) (status : Byte) (x : Sample) (m : Bool) :
    (chipActs (.cycle status x m) s).chip.run = nextRun (outsideBand s.bandNow x.clear) s.chip.run
      ∧ (chipActs (.cycle status x m) s).chip.latch
          = (s.chip.latch || decide (n ≤ (chipActs (.cycle status x m) s).chip.run))
      ∧ (chipActs (.cycle status x m) s).lineLevel = (chipActs (.cycle status x m) s).chip.latch
      ∧ (chipActs (.cycle status x m) s).session = s.session := by
  obtain ⟨hband, henable, hfilter⟩ := State.chipStores_config h status x
  obtain ⟨reg, hreg⟩ := s.chipStores_eq status x
  have hchip : (s.chipStores status x).chip.run = s.chip.run ∧ (s.chipStores status x).chip.latch = s.chip.latch
      ∧ (s.chipStores status x).session = s.session := by rw [hreg]; exact ⟨rfl, rfl, rfl⟩
  obtain ⟨hrun, hlatch, hsession⟩ := hchip
  rw [chipActs_cycle, hconv, if_pos rfl]
  refine ⟨?_, ?_, ?_, hsession⟩
  · simp only [State.compare, hband, hrun]
  · simp only [State.compare, hband, hrun, hfilter, hf, henable, hi, hlatch, filterSatisfied, Bool.true_or,
      Bool.and_true]
  · rw [State.lineLevel, State.compare_enableNow, henable, hi, Bool.and_true]

/-- With the latch on the line, an attached watcher holds an edge afterwards exactly when it held one or the condition is
newly latched (R156, R167). -/
theorem observeEdge_edge_iff {b a : State} (hw : a.session.watcher = true) (hline : a.lineLevel = a.chip.latch)
    (hkeep : b.chip.latch = true → a.chip.latch = true) : (observeEdge b a).session.edge = true ↔
      a.session.edge = true ∨ b.chip.latch = false ∧ a.chip.latch = true := by
  cases hb : b.chip.latch with
  | true => simp [observeEdge_latched hb (hkeep hb)]
  | false =>
    cases ha : a.chip.latch with
    | true => simp [observeEdge_newly_latched hw (hline.trans ha) hb]
    | false => simp [observeEdge_same_latch (ha.trans hb.symm)]

/-- Settles O52: the cycle counts and latches, and the watcher sees what it latched. -/
theorem comparatorCountsAndLatches : Obligations.ComparatorCountsAndLatches := by
  intro s t status x m rest n hs hsch ht he hf
  obtain ⟨h, -⟩ := State.sound_iff.mp hs
  have hconv : s.converting = true := by rw [State.converting, he]; rfl
  have hi : s.enableNow.interrupts = true := by rw [he]
  obtain ⟨hrun, hlatch, hline, hsession⟩ :=
    chipActs_cycle_count (s := { s with schedule := rest }) h hconv hi hf status x m
  have hstep : step s = .next (observeEdge s (chipActs (.cycle status x m) { s with schedule := rest })) := by
    rw [step_of_turn hsch]; rfl
  generalize chipActs (.cycle status x m) { s with schedule := rest } = r at hrun hlatch hline hsession hstep
  obtain rfl : observeEdge s r = t := Host.Outcome.next.inj (hstep.symm.trans ht)
  simp only [observeEdge_chip]
  refine ⟨?_, by rw [hlatch]; simp, fun hw => ?_⟩
  · rw [hrun, nextRun]
    simp only [outsideBand_iff]; rfl
  · rw [observeEdge_edge_iff (by rw [hsession]; exact hw) hline (fun hl => by rw [hlatch, hl]; rfl), hsession]

/-! ### The idle interrupt path (R156, R166) -/

theorem irqTurn_enters (hirq : s.session.irq = none) (hw : s.session.watcher = true) (he : s.session.edge = true)
    (hv : s.violationStands = true) : irqTurn s = .next s.enterHandler := by
  simp [irqTurn, hirq, hw, he, hv]

theorem irqTurn_waits (hirq : s.session.irq = none)
    (h : s.session.watcher = false ∨ s.session.edge = false ∨ s.violationStands = false) : irqTurn s = .next s := by
  rcases h with h | h | h <;> simp [irqTurn, hirq, h]

theorem State.violationStands_iff :
    s.violationStands = true ↔ s.chip.latch = true ∧ s.statusByte &&& s.cfg.mAint ≠ 0 := by
  simp only [State.violationStands, statusFlags, testMask, Bool.and_eq_true, bne_iff_ne]

/-- Entry is a step of its own, which changes the edge and the handler's progress. -/
theorem step_enters (hsch : s.schedule = .irq :: rest) (hirq : s.session.irq = none) (hw : s.session.watcher = true)
    (he : s.session.edge = true) (hv : s.violationStands = true) : step s = .next { s with
      schedule := rest, session := { s.session with edge := false, irq := some .readBoth } } :=
  step_of_turn_same_chip hsch (irqTurn_enters (s := { s with schedule := rest }) hirq hw he hv) rfl

/-- Settles O53: the four conditions are those of the entry, a sound state with a pending edge and interrupts enabled meets
them all, and the watcher drops an edge whose condition is cleared. -/
theorem handlerEntrySavesNothing : Obligations.HandlerEntrySavesNothing := by
  refine ⟨fun s rest hsch hirq => ⟨fun hw he hl hv => ?_, fun hnot => ?_, fun hs he hi => ?_⟩, fun s t ht hl h0 => ?_⟩
  · exact step_enters hsch hirq hw he (State.violationStands_iff.mpr ⟨hl, hv⟩)
  · have hwaits : s.session.watcher = false ∨ s.session.edge = false ∨ s.violationStands = false :=
      hnot.imp_right fun h => h.imp_right fun h => by
        rw [← Bool.not_eq_true, State.violationStands_iff]
        rintro ⟨hl, hv⟩
        exact h.elim (fun h => Bool.noConfusion (hl.symm.trans h)) hv
    exact step_of_turn_same_chip hsch (irqTurn_waits (s := { s with schedule := rest }) hirq hwaits) rfl
  · obtain ⟨hc, -, hn, -, hedge⟩ := State.sound_iff.mp hs
    exact step_enters hsch hirq (hn.edge he) he ((s.violationStands_enabled hc hi).trans (hedge he))
  · obtain ⟨r, -, rfl⟩ := step_next ht
    rw [observeEdge_chip] at h0
    rw [observeEdge_cleared hl h0]; rfl

/-! ### A stuck interrupt path (R185, U18) -/

/-- What a stuck interrupt path is, in the session. -/
structure Session.Stuck (n : Session) : Prop where
  watcher : n.watcher = true
  edge : n.edge = false
  irq : n.irq = none
  poll : pollServesNone n.poll = true
  config : ∀ hc, n.config = some hc → hc.softwareInterrupt = false

theorem State.hung_iff : s.hung = true ↔ s.chip.latch = true ∧ s.session.Stuck := by
  simp only [State.hung, Bool.and_eq_true, Bool.not_eq_true', Option.isNone_iff_eq_none, Option.all_eq_true]
  exact ⟨fun ⟨⟨⟨⟨⟨l, w⟩, e⟩, i⟩, p⟩, c⟩ => ⟨l, w, e, i, p, c⟩,
    fun ⟨l, w, e, i, p, c⟩ => ⟨⟨⟨⟨⟨l, w⟩, e⟩, i⟩, p⟩, c⟩⟩

/-- A poll that does not serve, with software interrupts disabled, goes on to no service: it leaves the chip alone, and of
the session changes its own progress and the LED. -/
structure PollGoesOn (s t : State) : Prop where
  chip : t.chip = s.chip
  session : ∃ led q, pollServesNone q = true ∧ t.session = { s.session with led := led, poll := q }

/-- Such an action: its value is the poll's next progress. -/
def Slice.PollsOn (x : Slice (Option PollPhase)) (s : State) : Prop :=
  match x with
  | .ok q t => pollServesNone q = true ∧ t.chip = s.chip ∧ ∃ led, t.session = { s.session with led := led }
  | .fail _ t => t.chip = s.chip ∧ ∃ led, t.session = { s.session with led := led }
  | .fault _ => True
  | .refused _ => True

theorem Slice.PollsOn.endTurn {x : Slice (Option PollPhase)} (h : x.PollsOn s) :
    Res.Ends (endTurn .poll x State.setPoll) (PollGoesOn s) := by
  cases x with
  | ok q t =>
    obtain ⟨hq, hchip, led, hn⟩ := h
    exact Res.ends_next.mpr ⟨hchip, led, q, hq, by rw [State.setPoll_session, hn]⟩
  | fail f t =>
    obtain ⟨hchip, led, hn⟩ := h
    exact Res.ends_next.mpr ⟨hchip, led, none, rfl, by rw [State.logged_session, State.setPoll_session, hn]⟩
  | fault r => exact Res.ends_fault r
  | refused r => exact Res.ends_refused r

/-- What follows a read of the poll decides how the action ends. -/
theorem Slice.Ends.bindPollsOn {x : Slice α} {k : α → State → Slice (Option PollPhase)} (hx : x.Ends (· = s.answered))
    (hk : ∀ a, (k a s.answered).PollsOn s) : (x.bind k).PollsOn s := by
  cases x with
  | ok a t => obtain rfl : t = s.answered := hx; exact hk a
  | fail f t => obtain rfl : t = s.answered := hx; exact ⟨rfl, s.session.led, rfl⟩
  | fault r => trivial
  | refused r => trivial

theorem pollRead_ends (hc : HostConfig) (s : State) : (pollRead hc s).Ends (· = s.answered) := by
  unfold pollRead
  split
  · exact (rdStatus_ends s).bind fun _ _ ht => ht
  · exact (rdProfile_ends s).bind fun _ _ ht => ht

theorem pollSlice_pollsOn {hc : HostConfig} (hsi : hc.softwareInterrupt = false) {p : PollPhase}
    (hp : pollServesNone (some p) = true) : (pollSlice hc p s).PollsOn s := by
  cases p with
  | read =>
    refine (pollRead_ends hc s).bindPollsOn fun r => ?_
    unfold afterPollRead
    split
    · exact ⟨rfl, rfl, _, rfl⟩
    · exact ⟨rfl, rfl, s.session.led, rfl⟩
  | ledDelay r => exact ⟨rfl, rfl, s.session.led, rfl⟩
  | readData r =>
    refine (rdData_ends s).bindPollsOn fun d => ?_
    simp only [afterData, hsi, Bool.and_false, Bool.false_eq_true, if_false]
    exact ⟨rfl, rfl, _, rfl⟩
  | service q => exact nomatch hp

theorem pollTurn_pollsOn (hn : s.session.Stuck) : Res.Ends (pollTurn s) (PollGoesOn s) := by
  have hp := hn.poll
  unfold pollTurn
  split
  next p hpoll =>
    rw [hpoll] at hp
    split
    next hc hcfg =>
      refine Slice.PollsOn.endTurn ?_
      unfold withBus
      split
      · exact pollSlice_pollsOn (hn.config hc hcfg) hp
      · exact ⟨rfl, s.session.led, rfl⟩
    · exact Res.ends_next.mpr ⟨rfl, s.session.led, none, rfl, rfl⟩
  next hpoll => exact Res.ends_next.mpr ⟨rfl, s.session.led, none, rfl, by rw [← hpoll]⟩

/-- In `Running` the setup sequence has nothing to do. -/
theorem setupTurn_running (hl : s.session.lifecycle = .running) : setupTurn s = .next s := by
  cases hcfg : s.session.config <;> simp only [setupTurn, hcfg, hl]

/-- A watched session is running and holds its line, so every agent but the foreground and every call but `stop` leaves a
stuck path stuck: neither the interrupt path nor the poll is at a clear. -/
theorem runTurn_hung (hn : SessionFacts s.cfg s.session) (hh : s.hung = true) {u : Turn} (hu : u ≠ .foreground)
    (hstop : u ≠ .call .stop) : Res.Ends (runTurn u s) fun t => t.hung = true := by
  obtain ⟨hl, hs⟩ := State.hung_iff.mp hh
  obtain ⟨hrun, hline⟩ := hn.watcher hs.watcher
  cases u with
  | foreground => exact absurd rfl hu
  | call c =>
    cases c with
    | stop => exact absurd rfl hstop
    | start =>
      simp only [runTurn, lifecycleCall, startSession, if_pos hrun, Res.ends_next]
      exact State.hung_iff.mpr ⟨hl, { hs with watcher := hline }⟩
    | setupWithRetry hc =>
      simp only [runTurn, lifecycleCall, setupWithRetry, hrun, reduceCtorEq, if_false, Res.ends_next]
      exact hh
  | setup =>
    rw [runTurn, setupTurn_running hrun, Res.ends_next]
    exact hh
  | retryFires =>
    simp only [runTurn, retryFires, hrun, reduceCtorEq, false_and, if_false, Res.ends_next]
    exact hh
  | pollFires =>
    simp only [runTurn, pollFires, Res.ends_next]
    split
    · exact State.hung_iff.mpr ⟨hl, { hs with poll := rfl }⟩
    · exact hh
  | poll =>
    refine (pollTurn_pollsOn hs).imp fun t ht => ?_
    obtain ⟨led, q, hq, hsession⟩ := ht.session
    rw [State.hung_iff, ht.chip, hsession]
    exact ⟨hl, { hs with poll := hq }⟩
  | irq =>
    rw [runTurn, irqTurn_waits hs.irq (.inr (.inl hs.edge)), Res.ends_next]
    exact hh
  | chip act =>
    obtain ⟨chip, hc⟩ := chipActs_eq act s
    refine Res.ends_next.mpr (State.hung_iff.mpr ⟨(chipActs_keeps act s).latch hl, ?_⟩)
    rw [hc]; exact hs

/-- The foreground leaves the session alone. -/
theorem foreground_session (s : State) : Res.Ends (foreground s) fun t => t.session = s.session :=
  (foreground_ends s).imp fun t ht => by
    rcases ht with ht | ⟨_, _, _, -, -, ht⟩ <;> exact ht.session

/-- Settles O55: whoever moves leaves the path stuck, and while the latch is set the watcher sees no edge. -/
theorem hungPathStaysHung : Obligations.HungPathStaysHung := by
  intro s t hs hh ht
  obtain ⟨-, -, hn, -⟩ := State.sound_iff.mp hs
  obtain ⟨hl, hstuck⟩ := State.hung_iff.mp hh
  refine ⟨fun u rest hsch hu hstop => ?_, fun hfore hlt => ?_⟩
  · obtain ⟨r, hr, rfl⟩ := step_next ht
    simp only [scheduled, hsch] at hr
    have hr := runTurn_hung (s := { s with schedule := rest }) hn hh hu hstop r hr
    rwa [observeEdge_latched hl (State.hung_iff.mp hr).1]
  · rw [step_of_foreground hfore] at ht
    cases hr : foreground { s with schedule := s.schedule.tail } with
    | next r =>
      rw [hr] at ht
      obtain rfl : observeEdge s r = t := Host.Outcome.next.inj ht
      rw [observeEdge_chip] at hlt
      have hsession : r.session = s.session := foreground_session { s with schedule := s.schedule.tail } r hr
      rw [observeEdge_latched hl hlt]
      exact State.hung_iff.mpr ⟨hlt, hsession ▸ hstuck⟩
    | fault f => rw [hr] at ht; exact nomatch ht
    | refused f => rw [hr] at ht; exact nomatch ht

end Sys2Proof.Machine
end

section
/-! PROOFS. Identity and failures (R132, R152, R157, R158, R161 to R163): what the setup makes of the identity byte, and how a
failing request, or a window the threshold encoder refuses, ends a handler or a poll and nothing else. -/

namespace Sys2Proof.Machine

variable {α : Type} {s t u : State} {rest : List Turn} {hc : HostConfig} {q : ServicePhase} {p : PollPhase}
  {r : ControllerStep} {landed : List Bool}

/-! ### The identity (R161) -/

theorem verifyIdentity_ok (h : CfgFacts s.cfg) (ha : s.answer = .ok) : verifyIdentity hc s =
    .next (if s.regByte s.cfg.aId.toNat = s.cfg.chipId then identityConfirmed hc s.answered
      else s.answered.setupFailed .identityMismatch) := by
  rw [verifyIdentity, rdId_ok h ha]; rfl

/-- Settles O59: the byte read decides between the two next states, neither of which touches the chip. -/
theorem setupVerifiesIdentity : Obligations.SetupVerifiesIdentity := by
  intro s hc rest hwf hsch hl hcfg ha
  have hturn := (setupTurn_verifying (s := { s with schedule := rest }) hcfg hl).trans
    (verifyIdentity_ok ((cfgWellFormed_iff _).mp hwf) ha)
  by_cases hid : s.regByte s.cfg.aId.toNat = s.cfg.chipId
  · obtain ⟨led, line, answers, draws, log, he⟩ :=
      identityConfirmed_eq hc ({ s with schedule := rest } : State).answered
    have hconfirmed := hturn.trans (congrArg Host.Outcome.next ((if_pos hid).trans he))
    exact ⟨_, step_of_turn_same_chip hsch hconfirmed rfl, rfl, fun hne => absurd hid hne, fun _ => ⟨rfl, rfl, rfl⟩⟩
  · have hfailed := hturn.trans (congrArg Host.Outcome.next (if_neg hid))
    exact ⟨_, step_of_turn_same_chip hsch hfailed rfl, rfl, fun _ => ⟨rfl, rfl, rfl, rfl, rfl, rfl⟩,
      fun heq => absurd heq hid⟩

/-! ### The turns of the two paths at work -/

theorem irqTurn_service (hirq : s.session.irq = some q) (hcfg : s.session.config = some hc)
    (hbus : s.session.bus = true) :
    irqTurn s = endTurn .irq (serviceSlice .irq hc.strategy q s) State.setIrq := by
  simp only [irqTurn, hirq, hcfg, withBus, hbus, if_true]

theorem pollTurn_slice (hp : s.session.poll = some p) (hcfg : s.session.config = some hc)
    (hbus : s.session.bus = true) : pollTurn s = endTurn .poll (pollSlice hc p s) State.setPoll := by
  simp only [pollTurn, hp, hcfg, withBus, hbus, if_true]

/-- A running session has the bus and its configuration. -/
theorem SessionFacts.running {c : Cfg} {n : Session} (h : SessionFacts c n) (hl : n.lifecycle = .running) :
    n.bus = true ∧ ∃ hc, n.config = some hc := by
  refine ⟨h.bus.trans (by rw [hl]; rfl), Option.isSome_iff_exists.mp (h.config.trans (by rw [hl]; rfl))⟩

/-- A turn is the step but for the edge. -/
theorem step_of_turn_edge {v : Turn} (hsch : s.schedule = v :: rest)
    (ht : runTurn v { s with schedule := rest } = .next t) : ∃ e, step s = .next (t.setEdge e) := by
  obtain ⟨e, he⟩ := observeEdge_eq s t
  exact ⟨e, by rw [step_of_turn hsch, ht, watchLine, he]⟩

/-! ### A failing request (R152) -/

theorem rdThresh_rejected (h : CfgFacts s.cfg) (ha : s.answer = .fail landed) : (rdThresh s).Rejected s :=
  ⟨s.answered, rdThresh_fail h ha, rfl, rfl, rfl⟩

theorem rdData_rejected (h : CfgFacts s.cfg) (ha : s.answer = .fail landed) : (rdData s).Rejected s :=
  ⟨s.answered, rdData_fail h ha, rfl, rfl, rfl⟩

theorem wrThresh_rejected {low high : Int} (h : CfgFacts s.cfg) (ha : s.answer = .fail landed)
    (he : ∃ bs, encodeThreshold low high = .ok bs) : (wrThresh low high s).Rejected s := by
  obtain ⟨bs, he⟩ := he
  rw [wrThresh_eq h he]
  exact State.answerWrite_rejected ha _ _

/-- The coming write of a service is of a window the threshold encoder takes. -/
def ServicePhase.encodable (q : ServicePhase) : Prop :=
  ∀ r, q = .write r ∨ q = .rewrite r → ∃ bs, encodeThreshold r.newLow r.newHigh = .ok bs

/-- Whichever request of a service fails, the service fails with it. -/
theorem serviceSlice_rejected (h : CfgFacts s.cfg) (ha : s.answer = .fail landed) (hq : q.encodable) (who : Activity)
    (st : Strategy) : (serviceSlice who st q s).Rejected s := by
  cases q with
  | readBoth =>
    simp only [serviceSlice]
    split
    · exact (rdThresh_rejected (s := s.picked) h ha).bind _
    · exact (rdData_rejected (s := s.picked) h ha).bind _
  | readSample b => exact (rdData_rejected h ha).bind _
  | readThreshold clear => exact (rdThresh_rejected h ha).bind _
  | write r => exact (wrThresh_rejected h ha (hq r (.inl rfl))).bind _
  | rewrite r => exact (wrThresh_rejected h ha (hq r (.inr rfl))).bind _
  | clear => exact (clrInt_rejected ha).bind _

/-- A turn that ends in a failing action is the step but for the edge: of the session only the activity's progress has
changed, and the failure is logged. -/
theorem step_rejected {β : Type} {v : Turn} {who : Activity} {x : Slice (Option β)} {keep : State → Option β → State}
    {ended : Session → Session} (hsch : s.schedule = v :: rest)
    (hturn : runTurn v { s with schedule := rest } = endTurn who x keep) (hx : x.Rejected { s with schedule := rest })
    (hkeep : ∀ t, (keep t none).session = ended t.session ∧ (keep t none).log = t.log) :
    ∃ t e, step s = .next t ∧ t.session = { ended s.session with edge := e } ∧ t.log = (who, .transport) :: s.log := by
  obtain ⟨u, hu, hsession, hlog, -⟩ := hx
  obtain ⟨hended, hkept⟩ := hkeep u
  rw [hu] at hturn
  obtain ⟨e, he⟩ := step_of_turn_edge hsch hturn
  refine ⟨_, e, he, ?_, ?_⟩
  · rw [State.setEdge_session, State.logged_session, hended, hsession]
  · rw [State.setEdge_log, State.logged_log, hkept, hlog]

/-- The poll's own two reads, failed. -/
theorem pollSlice_read_fail (h : CfgFacts s.cfg) (ha : s.answer = .fail landed)
    (hp : p = .read ∨ ∃ r, p = .readData r) : pollSlice hc p s = .fail .transport s.answered := by
  rcases hp with rfl | ⟨r, rfl⟩
  · cases hm : hc.pollMode with
    | status => simp only [pollSlice, pollRead, hm, rdStatus_fail h ha, Slice.bind]
    | profile => simp only [pollSlice, pollRead, hm, rdProfile_fail h ha, Slice.bind]
  · simp only [pollSlice, rdData_fail h ha, Slice.bind]

/-! ### A window the encoder refuses (R132) -/

theorem serviceSlice_refused {e : OpError} (hq : q = .write r ∨ q = .rewrite r)
    (he : encodeThreshold r.newLow r.newHigh = .error e) (who : Activity) (st : Strategy) :
    serviceSlice who st q s = .fail (.domain e) s := by
  rcases hq with rfl | rfl <;> simp only [serviceSlice, wrThresh_error he, Slice.bind]

/-- Settles O57: a failing request and a refused window end the path they belong to, and the log is all else. -/
theorem handlerFailureEndsHandlerOnly : Obligations.HandlerFailureEndsHandlerOnly := by
  refine ⟨fun s q rest landed hs hl ha hq => ?_, fun s p rest landed hs hl ha hsch hp hread => ?_,
    fun s hc q r e rest hbus hcfg hq he => ⟨fun hsch hirq => ?_, fun hsch hp => ?_⟩⟩
  · obtain ⟨h, -, hn, -⟩ := State.sound_iff.mp hs
    obtain ⟨hbus, hc, hcfg⟩ := hn.running hl
    have hx (who : Activity) : (serviceSlice who hc.strategy q { s with schedule := rest }).Rejected _ :=
      serviceSlice_rejected (s := { s with schedule := rest }) h ha hq who hc.strategy
    refine ⟨fun hsch hirq => ?_, fun hsch hp => ?_⟩
    · obtain ⟨t, e, ht, hsession, hlog⟩ := step_rejected (ended := fun n => { n with irq := none }) hsch
        (irqTurn_service (s := { s with schedule := rest }) hirq hcfg hbus) (hx .irq) fun _ => ⟨rfl, rfl⟩
      exact ⟨t, ht, by rw [hsession]; exact hl, by rw [hsession]; exact hbus, by rw [hsession], by rw [hsession], hlog⟩
    · obtain ⟨t, e, ht, hsession, hlog⟩ := step_rejected (ended := fun n => { n with poll := none }) hsch
        (pollTurn_slice (s := { s with schedule := rest }) hp hcfg hbus) ((hx .poll).bind _) fun _ => ⟨rfl, rfl⟩
      exact ⟨t, ht, by rw [hsession]; exact hl, by rw [hsession]; exact hbus, by rw [hsession], by rw [hsession], hlog⟩
  · obtain ⟨h, -, hn, -⟩ := State.sound_iff.mp hs
    obtain ⟨hbus, hc, hcfg⟩ := hn.running hl
    have hturn := pollTurn_slice (s := { s with schedule := rest }) hp hcfg hbus
    rw [pollSlice_read_fail (s := { s with schedule := rest }) h ha hread] at hturn
    exact ⟨_, step_of_turn_same_chip hsch hturn rfl, rfl, rfl, rfl, rfl⟩
  · have hturn := irqTurn_service (s := { s with schedule := rest }) hirq hcfg hbus
    rw [serviceSlice_refused hq he] at hturn
    exact step_of_turn_same_chip hsch hturn rfl
  · have hturn := pollTurn_slice (s := { s with schedule := rest }) hp hcfg hbus
    rw [pollSlice, serviceSlice_refused hq he] at hturn
    exact step_of_turn_same_chip hsch hturn rfl

end Sys2Proof.Machine
end

section
/-! PROOFS. The handler's failure-free run (R124, R158, R166, R167, R184). `HandlerAt` says where in its sequence the handler
stands and that nothing else has moved since a base state; one lemma per turn carries it on, and the base takes up what the
turn has stored, logged or emitted. -/

namespace Sys2Proof.Machine

variable {s u v : State} {rest : List Turn} {hc : HostConfig} {q : ServicePhase} {r : ControllerStep}

/-- The handler of a session with the bus is about to do `q`, the turns to come are given, every request will be granted,
and otherwise the machine is as the base state `s` has it. -/
structure HandlerAt (hc : HostConfig) (s : State) (q : ServicePhase) (turns : List Turn) (v : State) : Prop where
  facts : CfgFacts s.cfg
  config : s.session.config = some hc
  bus : s.session.bus = true
  cfg : v.cfg = s.cfg
  chip : v.chip = s.chip
  session : v.session = { s.session with irq := some q }
  schedule : v.schedule = turns
  answers : v.answers = []
  log : v.log = s.log
  events : v.events = s.events

@[simp] theorem State.setRegs_log (s : State) (a : Nat) (bs : List Byte) : (s.setRegs a bs).log = s.log := by
  obtain ⟨_, h⟩ := s.setRegs_eq a bs; rw [h]

@[simp] theorem State.setRegs_events (s : State) (a : Nat) (bs : List Byte) : (s.setRegs a bs).events = s.events := by
  obtain ⟨_, h⟩ := s.setRegs_eq a bs; rw [h]

/-- The state once the schedule has moved on. -/
def State.withTurns (s : State) (turns : List Turn) : State := { s with schedule := turns }

/-! ### What the handler's updates make of it -/

section Updates

variable (h : HandlerAt hc s q rest v)
include h

theorem HandlerAt.withTurns (turns : List Turn) : HandlerAt hc s q turns (v.withTurns turns) :=
  { h with schedule := rfl }

theorem HandlerAt.picked : HandlerAt hc s q rest v.picked := { h with }

theorem HandlerAt.answered : HandlerAt hc s q rest v.answered :=
  { h with answers := congrArg List.tail h.answers }

theorem HandlerAt.setIrq (next : ServicePhase) : HandlerAt hc s next rest (v.setIrq (some next)) :=
  { h with session := congrArg (fun n : Session => { n with irq := some next }) h.session }

theorem HandlerAt.logged (who : Activity) (f : Failure) : HandlerAt hc (s.logged who f) q rest (v.logged who f) :=
  { h with log := by rw [State.logged_log, State.logged_log, h.log] }

theorem HandlerAt.adoptWindow (r : ControllerStep) : HandlerAt hc (s.adoptWindow r) q rest (v.adoptWindow r) :=
  { h with
    session := congrArg (fun n : Session => { n with window := some { low := r.newLow, high := r.newHigh } }) h.session }

/-- The event of a step of the controller, with the stamp it got (R159). -/
theorem HandlerAt.emitStep (r : ControllerStep) :
    HandlerAt hc (s.emit (.step { low := r.newLow, high := r.newHigh } r.direction r.sampleClear
      (Config.timestamp v.draws))) q rest (v.emitStep r) :=
  { h with events := by rw [State.emitStep_events, State.emit_events, h.events] }

/-- A block store makes the same register file of the same chip. -/
theorem HandlerAt.setRegs (a : Nat) (bs : List Byte) : HandlerAt hc (s.setRegs a bs) q rest (v.setRegs a bs) := by
  induction bs generalizing s v a with
  | nil => exact h
  | cons b bs ih =>
    have hstore : HandlerAt hc (s.setReg a b) q rest (v.setReg a b) :=
      { h with chip := by rw [State.setReg_chip, State.setReg_chip, h.cfg, h.chip] }
    exact ih hstore (a + 1)

theorem HandlerAt.answer : v.answer = .ok := by
  rw [State.answer, h.answers]; rfl

theorem HandlerAt.facts_now : CfgFacts v.cfg := h.cfg ▸ h.facts

theorem HandlerAt.latch : v.chip.latch = s.chip.latch := congrArg Chip.latch h.chip

theorem HandlerAt.regByte (a : Nat) : v.regByte a = s.regByte a := State.regByte_congr h.cfg (congrArg Chip.reg h.chip) a

theorem HandlerAt.bandNow : v.bandNow = s.bandNow := State.bandNow_congr h.cfg (congrArg Chip.reg h.chip)

theorem HandlerAt.dataNow : v.dataNow = s.dataNow := by
  simp only [State.dataNow, h.regByte, h.cfg]

theorem HandlerAt.rdThresh_eq : rdThresh v = .ok s.bandNow v.answered := by
  rw [rdThresh_ok h.facts_now h.answer, h.bandNow]

theorem HandlerAt.rdData_eq : rdData v = .ok (s.dataNow, derive s.dataNow) v.answered := by
  rw [rdData_ok h.facts_now h.answer, h.dataNow]

theorem HandlerAt.wrThresh_eq {low high : Int} {bs : List Byte} (he : encodeThreshold low high = .ok bs) :
    wrThresh low high v = .ok () (v.answered.setRegs s.cfg.aAiltl.toNat bs) := by
  rw [wrThresh_ok h.facts_now he h.answer, h.cfg]

end Updates

/-! ### A turn of the handler -/

/-- The handler's turn as a step. -/
theorem HandlerAt.step_turn (h : HandlerAt hc s q (.irq :: rest) v) {next : Option ServicePhase}
    (hx : serviceSlice .irq hc.strategy q (v.withTurns rest) = .ok next u) :
    step v = .next (observeEdge v (u.setIrq next)) := by
  have hturn : runTurn .irq (v.withTurns rest) =
      endTurn .irq (serviceSlice .irq hc.strategy q (v.withTurns rest)) State.setIrq :=
    irqTurn_service (congrArg Session.irq h.session) ((congrArg Session.config h.session).trans h.config)
      ((congrArg Session.bus h.session).trans h.bus)
  rw [hx] at hturn
  rw [step_of_turn h.schedule]
  exact congrArg (watchLine v) hturn

/-- A turn after which the handler stands at its next phase, the latch as it was. -/
theorem HandlerAt.step_to {b : State} {next : ServicePhase} (h : HandlerAt hc s q (.irq :: rest) v)
    (hx : serviceSlice .irq hc.strategy q (v.withTurns rest) = .ok (some next) u)
    (hu : HandlerAt hc b next rest (u.setIrq (some next))) (hl : b.chip.latch = s.chip.latch) :
    ∃ w, step v = .next w ∧ HandlerAt hc b next rest w := by
  refine ⟨_, h.step_turn hx, ?_⟩
  rw [observeEdge_same_latch (hu.latch.trans (hl.trans h.latch.symm))]
  exact hu

/-- R158 steps 1 and 2: one of the two reads is done first, whichever the environment picks. -/
theorem HandlerAt.first_read (h : HandlerAt hc s .readBoth (.irq :: rest) v) :
    ∃ next w, step v = .next w ∧ HandlerAt hc s next rest w
      ∧ (next = .readSample s.bandNow ∨ next = .readThreshold s.dataNow.clear) := by
  have hx := (h.withTurns rest).picked
  by_cases hpick : (v.withTurns rest).pick % 2 = 0
  · obtain ⟨w, hw⟩ := h.step_to (by rw [serviceSlice, if_pos hpick, hx.rdThresh_eq]; rfl) (hx.answered.setIrq _) rfl
    exact ⟨_, w, hw.1, hw.2, .inl rfl⟩
  · obtain ⟨w, hw⟩ := h.step_to (by rw [serviceSlice, if_neg hpick, hx.rdData_eq]; rfl) (hx.answered.setIrq _) rfl
    exact ⟨_, w, hw.1, hw.2, .inr rfl⟩

/-- The other read ends in the decision, which has the window and the sample that stand in the registers. -/
theorem HandlerAt.second_read (h : HandlerAt hc s q rest v)
    (hq : q = .readSample s.bandNow ∨ q = .readThreshold s.dataNow.clear) :
    serviceSlice .irq hc.strategy q v = decideService .irq hc.strategy s.bandNow s.dataNow.clear v.answered := by
  rcases hq with rfl | rfl
  · rw [serviceSlice, h.rdData_eq]; rfl
  · rw [serviceSlice, h.rdThresh_eq]; rfl

/-- R158 step 3 outside the window: there is a window to write. -/
theorem HandlerAt.decide_outside (h : HandlerAt hc s q (.irq :: rest) v)
    (hq : q = .readSample s.bandNow ∨ q = .readThreshold s.dataNow.clear)
    (hout : (tstep hc.strategy s.bandNow s.dataNow.clear).direction ≠ .inside) :
    ∃ w, step v = .next w ∧ HandlerAt hc s (.write (tstep hc.strategy s.bandNow s.dataNow.clear)) rest w := by
  have hx := h.withTurns rest
  exact h.step_to (by rw [hx.second_read hq, decideService, if_neg hout]) (hx.answered.setIrq _) rfl

/-- R124, R184 inside it: the condition is logged; the redundant write comes next, or the event is emitted and the clear
comes next. -/
theorem HandlerAt.decide_inside (h : HandlerAt hc s q (.irq :: rest) v)
    (hq : q = .readSample s.bandNow ∨ q = .readThreshold s.dataNow.clear)
    (hin : (tstep hc.strategy s.bandNow s.dataNow.clear).direction = .inside) :
    let r := tstep hc.strategy s.bandNow s.dataNow.clear
    (∃ w, step v = .next w ∧ HandlerAt hc (s.logged .irq .anomalousInterrupt) (.rewrite r) rest w)
      ∨ ∃ w stamp, step v = .next w ∧ HandlerAt hc ((s.logged .irq .anomalousInterrupt).emit
          (.step { low := r.newLow, high := r.newHigh } r.direction r.sampleClear stamp)) .clear rest w := by
  have hx := h.withTurns rest
  have hlogged := hx.answered.picked.logged .irq .anomalousInterrupt
  by_cases hpick : (v.withTurns rest).answered.pick % 2 = 1
  · exact .inl (h.step_to (by rw [hx.second_read hq, decideService, if_pos hin, if_pos hpick]) (hlogged.setIrq _) rfl)
  · obtain ⟨w, hw⟩ := h.step_to (by rw [hx.second_read hq, decideService, if_pos hin, if_neg hpick])
      ((hlogged.emitStep _).setIrq _) rfl
    exact .inr ⟨w, _, hw⟩

/-- R158 steps 4 and 5 outside: the window is stored, adopted and emitted. -/
theorem HandlerAt.write (h : HandlerAt hc s (.write r) (.irq :: rest) v) {bs : List Byte}
    (he : encodeThreshold r.newLow r.newHigh = .ok bs) : ∃ w stamp, step v = .next w ∧
      HandlerAt hc (((s.setRegs s.cfg.aAiltl.toNat bs).adoptWindow r).emit
        (.step { low := r.newLow, high := r.newHigh } r.direction r.sampleClear stamp)) .clear rest w := by
  have hx := h.withTurns rest
  obtain ⟨w, hw⟩ := h.step_to (by rw [serviceSlice, hx.wrThresh_eq he]; rfl)
    ((((hx.answered.setRegs _ bs).adoptWindow r).emitStep r).setIrq _) (State.setRegs_latch ..)
  exact ⟨w, _, hw⟩

/-- The redundant write is stored and emitted (log 43). -/
theorem HandlerAt.rewrite (h : HandlerAt hc s (.rewrite r) (.irq :: rest) v) {bs : List Byte}
    (he : encodeThreshold r.newLow r.newHigh = .ok bs) : ∃ w stamp, step v = .next w ∧
      HandlerAt hc ((s.setRegs s.cfg.aAiltl.toNat bs).emit
        (.step { low := r.newLow, high := r.newHigh } r.direction r.sampleClear stamp)) .clear rest w := by
  have hx := h.withTurns rest
  obtain ⟨w, hw⟩ := h.step_to (by rw [serviceSlice, hx.wrThresh_eq he]; rfl)
    (((hx.answered.setRegs _ bs).emitStep r).setIrq _) (State.setRegs_latch ..)
  exact ⟨w, _, hw⟩

/-- The handler has returned, with the latch clear, and otherwise the machine is as the base state has it. -/
structure HandlerDone (s : State) (turns : List Turn) (t : State) : Prop where
  irq : t.session.irq = none
  window : t.session.window = s.session.window
  schedule : t.schedule = turns
  latch : t.chip.latch = false
  regs : ∀ a, t.regByte a = s.regByte a
  bandNow : t.bandNow = s.bandNow
  log : t.log = s.log
  events : t.events = s.events

/-- R158 step 6, R167: the clear comes last. -/
theorem HandlerAt.clear (h : HandlerAt hc s .clear (.irq :: rest) v) :
    ∃ t, step v = .next t ∧ HandlerDone s rest t := by
  have hx := (h.withTurns rest).answered
  refine ⟨_, h.step_turn (by rw [serviceSlice, clrInt_ok (h.withTurns rest).answer]; rfl), ?_⟩
  obtain ⟨e, he⟩ := observeEdge_eq v ((v.withTurns rest).answered.clearLatch.setIrq none)
  have hwindow : v.session.window = s.session.window := by rw [h.session]
  rw [he]
  exact
    { irq := rfl, window := hwindow, schedule := rfl, latch := rfl, regs := hx.regByte
      bandNow := hx.bandNow, log := h.log, events := h.events }

/-! ### The whole run -/

/-- Where the handler of a sound state begins. -/
theorem HandlerAt.start (hs : s.sound = true) (hcfg : s.session.config = some hc) (hbus : s.session.bus = true)
    (hirq : s.session.irq = some q) (hans : s.answers = []) : HandlerAt hc s q s.schedule s where
  facts := (State.sound_iff.mp hs).1
  config := hcfg
  bus := hbus
  cfg := rfl
  chip := rfl
  session := by rw [← hirq]
  schedule := rfl
  answers := hans
  log := rfl
  events := rfl

theorem tstep_sampleClear (st : Strategy) (b : Band) (clear : Word) : (tstep st b clear).sampleClear = clear := by
  cases st <;> rfl

/-- The window a register block holds, stored again, changes no register. -/
theorem State.regByte_setRegs_bandNow (s : State) (a : Nat) :
    (s.setRegs s.cfg.aAiltl.toNat (bandBytes s.bandNow)).regByte a = s.regByte a := by
  by_cases ha : a < s.cfg.aAiltl.toNat ∨ s.cfg.aAiltl.toNat + 4 ≤ a
  · exact s.regByte_setRegs_threshold s.bandNow ha
  · obtain ⟨i, hi, rfl⟩ : ∃ i < 4, a = s.cfg.aAiltl.toNat + i := ⟨a - s.cfg.aAiltl.toNat, by omega, by omega⟩
    have hl : (bandBytes s.bandNow).length = 4 := rfl
    rw [State.regByte_setRegs, if_pos (by omega), Nat.add_sub_cancel_left, bandBytes, State.bandNow, wordBytes_le16,
      wordBytes_le16]
    interval_cases i <;> rfl

/-- Outside the window: four steps, and the window of the controller is stored. -/
theorem HandlerAt.run_outside (h : HandlerAt hc s .readBoth (.irq :: .irq :: .irq :: .irq :: rest) v) {bs : List Byte}
    (hr : r = tstep hc.strategy s.bandNow s.dataNow.clear) (hout : r.direction ≠ .inside)
    (he : encodeThreshold r.newLow r.newHigh = .ok bs) :
    ∃ (t : State) (stamp : Q), core.run 4 v = .next t
      ∧ HandlerDone (((s.setRegs s.cfg.aAiltl.toNat bs).adoptWindow r).emit
          (.step { low := r.newLow, high := r.newHigh } r.direction r.sampleClear stamp)) rest t := by
  subst hr
  obtain ⟨q, w1, h1, hat1, hq⟩ := h.first_read
  obtain ⟨w2, h2, hat2⟩ := hat1.decide_outside hq hout
  obtain ⟨w3, stamp, h3, hat3⟩ := hat2.write he
  obtain ⟨t, h4, hdone⟩ := hat3.clear
  exact ⟨t, stamp, by rw [core_run_next h1, core_run_next h2, core_run_next h3, core_run_next h4]; rfl, hdone⟩

/-- Inside it: three steps, or four with the redundant write, which leaves every register as it was. -/
theorem HandlerAt.run_inside (h : HandlerAt hc s .readBoth (.irq :: .irq :: .irq :: .irq :: rest) v)
    (hin : direction s.bandNow s.dataNow.clear = .inside) :
    ∃ (k : Nat) (t : State) (stamp : Q), (k = 3 ∨ k = 4) ∧ core.run k v = .next t
      ∧ HandlerDone ((s.logged .irq .anomalousInterrupt).emit
          (.step { low := s.bandNow.low.toNat, high := s.bandNow.high.toNat } .inside s.dataNow.clear stamp))
          (v.schedule.drop k) t := by
  have hr := tstep_inside hc.strategy hin
  obtain ⟨q, w1, h1, hat1, hq⟩ := h.first_read
  rw [h.schedule]
  rcases hat1.decide_inside hq ((tstep_direction ..).trans hin) with ⟨w2, h2, hat2⟩ | ⟨w2, stamp, h2, hat2⟩
  · rw [hr] at hat2
    obtain ⟨w3, stamp, h3, hat3⟩ := hat2.rewrite (encodeThreshold_band s.bandNow)
    obtain ⟨t, h4, hdone⟩ := hat3.clear
    refine ⟨4, t, stamp, .inr rfl, by rw [core_run_next h1, core_run_next h2, core_run_next h3, core_run_next h4]; rfl, ?_⟩
    have hregs := State.regByte_setRegs_bandNow (s.logged .irq .anomalousInterrupt)
    exact
      { hdone with
        window := hdone.window.trans (by rw [State.emit_session, State.setRegs_session, State.emit_session])
        regs := fun a => (hdone.regs a).trans (hregs a)
        bandNow := hdone.bandNow.trans (State.bandNow_setRegs (s.logged .irq .anomalousInterrupt) s.bandNow)
        log := hdone.log.trans (State.setRegs_log ..)
        events := by rw [hdone.events, State.emit_events, State.setRegs_events]; rfl }
  · rw [hr] at hat2
    obtain ⟨t, h3, hdone⟩ := hat2.clear
    exact ⟨3, t, stamp, .inl rfl, by rw [core_run_next h1, core_run_next h2, core_run_next h3]; rfl, hdone⟩

/-- A conventional window's result is one the encoder takes (R130, R132). -/
theorem exists_words_of_tstep {st : Strategy} {b : Band} {clear : Word}
    (h : b.low.toNat ≤ b.high.toNat ∨ 0 ≤ (tstep st b clear).newLow ∧ (tstep st b clear).newLow ≤ 0xFFFF
      ∧ 0 ≤ (tstep st b clear).newHigh ∧ (tstep st b clear).newHigh ≤ 0xFFFF) :
    ∃ n : Band, (n.low.toNat : Int) = (tstep st b clear).newLow ∧ (n.high.toNat : Int) = (tstep st b clear).newHigh := by
  have hrange : 0 ≤ (tstep st b clear).newLow ∧ (tstep st b clear).newLow ≤ 0xFFFF
      ∧ 0 ≤ (tstep st b clear).newHigh ∧ (tstep st b clear).newHigh ≤ 0xFFFF := by
    rcases h with hconv | hrange
    · obtain ⟨h0, h1, h2, -⟩ := tstep_conventional st clear hconv
      exact ⟨h0, h1.trans h2, h0.trans h1, h2⟩
    · exact hrange
  obtain ⟨hl0, hl1, hh0, hh1⟩ := hrange
  obtain ⟨l, hl⟩ := exists_word hl0 hl1
  obtain ⟨u, hu⟩ := exists_word hh0 hh1
  exact ⟨⟨l, u⟩, hl, hu⟩

/-- Settles O54: the two runs of the handler, and what their bases have stored, logged and emitted. -/
theorem serviceNetEffect : Obligations.ServiceNetEffect := by
  intro s hc rest hs hsch hans hbus hcfg hirq clear r
  have hstart := HandlerAt.start hs hcfg hbus hirq hans
  rw [hsch] at hstart
  refine ⟨fun hout hwin => ?_, fun hin => ?_⟩
  · obtain ⟨n, hl, hh⟩ := exists_words_of_tstep hwin
    have he : encodeThreshold r.newLow r.newHigh = .ok (bandBytes n) := encodeThreshold_ok_iff.mpr ⟨n, hl, hh, rfl⟩
    obtain ⟨t, stamp, hrun, hdone⟩ := hstart.run_outside rfl hout he
    have hband : t.bandNow = n := hdone.bandNow.trans (s.bandNow_setRegs n)
    refine ⟨t, hrun, hdone.irq, hdone.schedule, hdone.latch, by rw [hband]; exact hl, by rw [hband]; exact hh,
      hdone.window, fun a ha => (hdone.regs a).trans (s.regByte_setRegs_threshold n ha),
      hdone.log.trans (State.setRegs_log ..), stamp, ?_⟩
    rw [hdone.events, State.emit_events, State.adoptWindow_events, State.setRegs_events, tstep_sampleClear]
    rfl
  · obtain ⟨k, t, stamp, hk, hrun, hdone⟩ := hstart.run_inside ((tstep_direction ..).symm.trans hin)
    exact ⟨k, t, hk, hrun, hdone.irq, hdone.schedule, hdone.latch, hdone.regs, hdone.window, hdone.log, stamp,
      hdone.events⟩

end Sys2Proof.Machine
end
